-- ==== Sys2Proof/Word.lean ====
section
/-! DEFINITION. The word types of the PFE (R7, R8, R61): bytes, 16-bit fields, 32-bit response words, 40-bit command words. -/

namespace Sys2Proof

/-- A byte: ring values, identifiers, type codes, payload bytes (R7). -/
abbrev Byte := BitVec 8

/-- A 16-bit unsigned field: the payload length and the command word's N (R7, R61). -/
abbrev Half := BitVec 16

/-- The 17 bits that hold a number of trailing bytes, 1..65536 (R7, R21). -/
abbrev TrailCount := BitVec 17

/-- A 32-bit response word (R10). -/
abbrev Word := BitVec 32

/-- A 40-bit command word, bit 0 least significant (R61). -/
abbrev CmdWord := BitVec 40

end Sys2Proof
end

