-- ==== Sys2Proof/Syntax.lean ====
section
/-! DEFINITION. The 20 commands (R64), the reasons a command word is no command (R65), and the lines of a program
in the spec's assembler (R69, R70). -/

namespace Sys2Proof

/-- One constructor per row of spec/opcode_table.json. Operands are the fields R64 marks as used, in the order
A, B, N, each an unsigned field taken as it stands (R62); an unused field is no part of the command (R63). -/
inductive Instr where
  /-- APPEND, OP 0x10 (R71). -/
  | append (value : Byte)
  /-- RETRIEVE, OP 0x11 (R72). -/
  | retrieve
  /-- PEEK, OP 0x12 (R73). -/
  | peek
  /-- READUPTO, OP 0x13 (R74). -/
  | readUpTo (maxCount : Half)
  /-- AVAILABLE, OP 0x14 (R75). -/
  | available
  /-- RBRESET, OP 0x15 (R76). -/
  | rbReset
  /-- POLL, OP 0x20 (R80). -/
  | poll
  /-- GETDEST, OP 0x21 (R88). -/
  | getDest
  /-- GETSRC, OP 0x22 (R89). -/
  | getSrc
  /-- GETTYPE, OP 0x23 (R90). -/
  | getType
  /-- GETLEN, OP 0x24 (R91). -/
  | getLen
  /-- GETPAY, OP 0x25 (R92). -/
  | getPay (index : Half)
  /-- GETRESYNC, OP 0x26 (R93). -/
  | getResync
  /-- GETSTAT, OP 0x27 (R94). -/
  | getStat
  /-- CLEAR, OP 0x28 (R95). -/
  | clear
  /-- PARSES8, OP 0x30 (R101). -/
  | parseS8 (cursor : Half)
  /-- PARSEDUP, OP 0x31 (R102). -/
  | parseDup (cursor : Half)
  /-- SEXT, OP 0x32 (R103). -/
  | sext (bitWidth : Byte) (raw : Half)
  /-- BUILDHDR, OP 0x40 (R104). -/
  | buildHdr (destId typeCode : Byte) (payloadLength : Half)
  /-- SENDTEXT, OP 0x41 (R105). Its text is not part of the word: it follows on the text channel (R33). -/
  | sendText (destId typeCode : Byte) (textLength : Half)
  deriving DecidableEq, Repr

/-- Why a command word is rejected by the decoder. -/
inductive DecodeError where
  /-- The opcode is none of the 20 of R64 (R65). -/
  | illegalOpcode (op : Byte)
  deriving DecidableEq, Repr

/-- One line of a program (R69, R70). -/
inductive Line where
  /-- A command other than SENDTEXT. -/
  | command (i : Instr)
  /-- A SENDTEXT with its text written in the line; its N is the number of bytes of the text (R69). -/
  | sendText (destId typeCode : Byte) (text : List Byte)
  /-- The pseudo-instruction FEED: one APPEND per byte (R70). -/
  | feed (bytes : List Byte)
  /-- The line `rx b0 b1 …`: those bytes arriving on the RX channel (R70). -/
  | rx (bytes : List Byte)
  /-- The line `clear` alone: a pulse on the `clear` input (R70). -/
  | clear
  deriving DecidableEq, Repr

/-- A piece of a program line's text (R69). -/
inductive Token where
  /-- A mnemonic or a number. -/
  | word (cs : List Char)
  /-- The comma between operands. -/
  | comma
  /-- A quoted string of printable ASCII, without its quotes. -/
  | str (cs : List Char)
  /-- The bracket that opens a list of byte values. -/
  | opening
  /-- The bracket that closes it. -/
  | closing
  deriving DecidableEq, Repr

end Sys2Proof
end

