-- ==== Sys2Proof/Decode.lean ====
section
/-! DEFINITION. The command word (R61, R62), its decoder over all 2^40 words (R64, R65) and the encoder. -/

namespace Sys2Proof

/-- OP, bits 39:32 (R61). -/
def opField (w : CmdWord) : Byte := w.extractLsb' 32 8

/-- A, bits 31:24 (R61). -/
def aField (w : CmdWord) : Byte := w.extractLsb' 24 8

/-- B, bits 23:16 (R61). -/
def bField (w : CmdWord) : Byte := w.extractLsb' 16 8

/-- N, bits 15:0 (R61). -/
def nField (w : CmdWord) : Half := w.extractLsb' 0 16

/-- The word with these four fields, OP in the highest bits (R61). -/
def packWord (op a b : Byte) (n : Half) : CmdWord := op ++ a ++ b ++ n

/-- The command a word stands for, by OP alone (R64); any other opcode is illegal (R65). Fields a command does not
use are ignored (R63). -/
def decode (w : CmdWord) : Except DecodeError Instr :=
  match (opField w).toNat with
  | 0x10 => .ok (.append (aField w))
  | 0x11 => .ok .retrieve
  | 0x12 => .ok .peek
  | 0x13 => .ok (.readUpTo (nField w))
  | 0x14 => .ok .available
  | 0x15 => .ok .rbReset
  | 0x20 => .ok .poll
  | 0x21 => .ok .getDest
  | 0x22 => .ok .getSrc
  | 0x23 => .ok .getType
  | 0x24 => .ok .getLen
  | 0x25 => .ok (.getPay (nField w))
  | 0x26 => .ok .getResync
  | 0x27 => .ok .getStat
  | 0x28 => .ok .clear
  | 0x30 => .ok (.parseS8 (nField w))
  | 0x31 => .ok (.parseDup (nField w))
  | 0x32 => .ok (.sext (aField w) (nField w))
  | 0x40 => .ok (.buildHdr (aField w) (bField w) (nField w))
  | 0x41 => .ok (.sendText (aField w) (bField w) (nField w))
  | _ => .error (.illegalOpcode (opField w))

/-- The opcode of a command (R64). -/
def opcode : Instr → Byte
  | .append _ => 0x10
  | .retrieve => 0x11
  | .peek => 0x12
  | .readUpTo _ => 0x13
  | .available => 0x14
  | .rbReset => 0x15
  | .poll => 0x20
  | .getDest => 0x21
  | .getSrc => 0x22
  | .getType => 0x23
  | .getLen => 0x24
  | .getPay _ => 0x25
  | .getResync => 0x26
  | .getStat => 0x27
  | .clear => 0x28
  | .parseS8 _ => 0x30
  | .parseDup _ => 0x31
  | .sext _ _ => 0x32
  | .buildHdr _ _ _ => 0x40
  | .sendText _ _ _ => 0x41

/-- The word software writes for a command: its opcode and operands, zero in every unused field (R63, R64). -/
def encode (i : Instr) : CmdWord :=
  match i with
  | .append v => packWord (opcode i) v 0 0
  | .readUpTo n => packWord (opcode i) 0 0 n
  | .getPay n => packWord (opcode i) 0 0 n
  | .parseS8 n => packWord (opcode i) 0 0 n
  | .parseDup n => packWord (opcode i) 0 0 n
  | .sext w n => packWord (opcode i) w 0 n
  | .buildHdr d t n => packWord (opcode i) d t n
  | .sendText d t n => packWord (opcode i) d t n
  | .retrieve => packWord (opcode i) 0 0 0
  | .peek => packWord (opcode i) 0 0 0
  | .available => packWord (opcode i) 0 0 0
  | .rbReset => packWord (opcode i) 0 0 0
  | .poll => packWord (opcode i) 0 0 0
  | .getDest => packWord (opcode i) 0 0 0
  | .getSrc => packWord (opcode i) 0 0 0
  | .getType => packWord (opcode i) 0 0 0
  | .getLen => packWord (opcode i) 0 0 0
  | .getResync => packWord (opcode i) 0 0 0
  | .getStat => packWord (opcode i) 0 0 0
  | .clear => packWord (opcode i) 0 0 0

/-- The opcode is one whose command uses field A (R64). -/
def usesA (op : Byte) : Bool := [0x10#8, 0x32#8, 0x40#8, 0x41#8].contains op

/-- The opcode is one whose command uses field B (R64). -/
def usesB (op : Byte) : Bool := [0x40#8, 0x41#8].contains op

/-- The opcode is one whose command uses field N (R64). -/
def usesN (op : Byte) : Bool :=
  [0x13#8, 0x25#8, 0x30#8, 0x31#8, 0x32#8, 0x40#8, 0x41#8].contains op

/-- Software writes every field its command does not use as zero (R63). A word that does not is still decoded. -/
def unusedFieldsZero (w : CmdWord) : Bool :=
  (usesA (opField w) || aField w == 0) && (usesB (opField w) || bField w == 0) &&
    (usesN (opField w) || nField w == 0)

/-- The decoder on a word numbered as spec/opcode_table.json numbers its bits; the PFE's word is one 40-bit
parallel word, so no byte order applies (R45). -/
def decodeTableWord (nbits w : Nat) : Option Instr :=
  match decode (BitVec.ofNat 40 (w % 2 ^ nbits)) with
  | .ok i => some i
  | .error _ => none

end Sys2Proof
end

