-- ==== Sys2Proof/Config.lean ====
section
/-! DEFINITION. What an instance fixes (R6) and the values the spec leaves free ("any value": R8, R10, R67, U1 to U4). -/

namespace Sys2Proof

/-- The implementation parameters of one instance (R6), fixed for its life (R124). RESYNC_W is 32 and is the
width of `Word`. The ranges are checked by `Config.valid`. -/
structure Config where
  /-- RB_CAP, the ring buffer's capacity in bytes, 1..2^32-1. -/
  rbCap : Nat
  /-- MY_ID, this device's identifier (R28). -/
  myId : Byte
  /-- SCRATCH_CAP, the outbound scratch buffer's capacity in bytes, 9..65543. -/
  scratchCap : Nat
  deriving DecidableEq, Repr

/-- The parameters a test vector means unless it says otherwise (95_test_vectors.md, Conventions). The spec leaves
each OPEN (R6); DESIGN CHOICE for `State.reset` only, log 1, unsafe for a claim about `State.reset` alone. -/
def Config.default : Config where
  rbCap := 65536
  myId := 0
  scratchCap := 65543

/-- The free values of responses: the n-th word drawn is `freeWord n`, of which nothing can be proved.
DESIGN CHOICE in its form only, log 4, safe. -/
opaque Config.freeWord : Nat → Word

/-- The free contents of a buffer after a power-on reset event, log 10, safe. -/
opaque Config.freeBytes : Nat → List Byte

end Sys2Proof
end

