-- ==== Sys2Proof/Machine/State.lean ====
section
/-! DEFINITION. The state of one PFE instance (R15, R38), the responses and events at its ports (R10, R29), and the
reasons a step can stop. -/

namespace Sys2Proof.Machine

/-- A byte buffer (Payload or Scratch) as (index, byte) cells in one canonical form, `Memory.wf`: indices strictly
rising, no listed byte 0. An unlisted cell reads as 0: DESIGN CHOICE, log 3, unsafe (R38 says any value). -/
abbrev Memory := List Host.Cell

/-- PSTATE (R18). -/
inductive PState where
  /-- 0 = SearchingHeader. -/
  | searchingHeader
  /-- 1 = HeaderValid. -/
  | headerValid
  deriving DecidableEq, Repr

/-- The status codes of R66; `Status.code` gives their numbers. The last two are reserved for the dispatcher
and never produced by the PFE (I9), log 18. -/
inductive Status where
  | ok
  | emptyBuffer
  | duplexMismatch
  | transportBroken
  | noPacket
  | outOfRange
  | badOperand
  | illegalCommand
  | unknownPacketType
  | logMessage
  deriving DecidableEq, Repr

/-- One response: `respond(status, value, aux, bytes)` (R10). -/
structure Response where
  status : Status
  value : Word
  aux : Word
  bytes : List Byte
  deriving DecidableEq, Repr

/-- What arrives at the PFE from outside; each is one step (R14, R51). -/
inductive Event where
  /-- A word on the command port (R32). -/
  | command (w : CmdWord)
  /-- A byte on the RX channel (R30). -/
  | rx (b : Byte)
  /-- A pulse on the `clear` input (R31). -/
  | clear
  /-- `rst_n` asserted and released (R121), log 10. -/
  | powerOn
  deriving DecidableEq, Repr

/-- The transport's answer to one offered byte (R35, R106). Where no answer is left the transport neither takes nor
refuses the byte: outcome (c) of R106, log 8. -/
inductive SinkAnswer where
  /-- The byte is taken. -/
  | take
  /-- `tx_broken` is asserted. -/
  | broken
  deriving DecidableEq, Repr

/-- A SENDTEXT in progress that waits (R33, R106, R135). -/
inductive Sending where
  /-- For text bytes; `taken` are those already taken, in order (U10, log 7). -/
  | awaitText (destId typeCode : Byte) (textLength : Half) (taken : List Byte)
  /-- For the transport, which has taken the first `sent` bytes of the frame (U11, log 8). -/
  | transmit (frame : List Byte) (sent : Nat)
  deriving DecidableEq, Repr

/-- The state of one PFE instance: the record of R15, the parameters of R6 (constant), and the model's own view
of the ports (INVENTORY.md, State). -/
structure State where
  /-- RB_CAP, MY_ID, SCRATCH_CAP (R6, R28); no step writes it. -/
  cfg : Config
  /-- Q, the unread bytes, oldest first (R16). -/
  q : List Byte
  /-- PSTATE (R18). -/
  pstate : PState
  /-- DEST (R19). -/
  dest : Byte
  /-- SRC (R19). -/
  src : Byte
  /-- TYPE (R19). -/
  typ : Byte
  /-- PLEN (R20). -/
  plen : Half
  /-- TREM (R21). -/
  trem : TrailCount
  /-- CSUM (R22). -/
  csum : Byte
  /-- CHKBYTE (R23). -/
  chkByte : Byte
  /-- Payload, 65535 cells (R24). -/
  payload : Memory
  /-- PKT_VALID (R25). -/
  pktValid : Bool
  /-- RESYNC_CNT (R26). -/
  resyncCnt : Word
  /-- Scratch, SCRATCH_CAP cells (R27). -/
  scratch : Memory
  /-- The SENDTEXT in progress, if one waits (R135). -/
  sending : Option Sending
  /-- The events to come, in the order they take effect (R52), log 5. -/
  inputs : List Event
  /-- Bytes offered on the text channel, not yet taken (R33), log 7. -/
  text : List Byte
  /-- The transport's answers to the bytes it will be offered (R106), log 8. -/
  sink : List SinkAnswer
  /-- The responses delivered, oldest first (R34), log 9. -/
  rsp : List Response
  /-- The bytes the transport has taken, oldest first (R35, R44), log 9. -/
  txOut : List Byte
  /-- How many free values have been drawn: the model's own, log 4. -/
  freeCount : Nat
  deriving DecidableEq, Repr

/-- Why the machine stops with a fault. The PFE has none (R109); both are the model's own and arise only in states
no run from power-on reaches (`Inv` in Safety.lean rules them out). -/
inductive Fault where
  /-- Raised by POLL's trailing-byte consumption when a `pop()` meets an empty ring, which needs TREM different from
  PLEN + 1 (R21, R83). Safe: the machine stops, log 12. -/
  | popOnEmpty
  /-- Raised by BUILDHDR and SENDTEXT when the bytes to write do not fit in Scratch, which needs a SCRATCH_CAP below
  9, outside R6. Safe: the machine stops, log 13. -/
  | outsideScratch
  deriving DecidableEq, Repr

/-- Why an instruction has no meaning. No arm of `exec` uses it: every command is modelled. -/
inductive Refusal where
  /-- Raised by an arm of `exec` whose instruction is not modelled yet. Safe: nothing is claimed of it. -/
  | notModelled (mnemonic : String)
  deriving DecidableEq, Repr

/-- The state right after power-on reset of an instance with these parameters (R38, R121): Q empty, PSTATE =
SearchingHeader, PKT_VALID = 0, RESYNC_CNT = 0. The registers R38 leaves at any value are 0 and the buffers list
nothing: DESIGN CHOICE, log 2 and log 3, unsafe. Nothing is pending at any port (log 5 to 9). -/
def State.resetWith (c : Config) : State where
  cfg := c
  q := []
  pstate := .searchingHeader
  dest := 0
  src := 0
  typ := 0
  plen := 0
  trem := 0
  csum := 0
  chkByte := 0
  payload := []
  pktValid := false
  resyncCnt := 0
  scratch := []
  sending := none
  inputs := []
  text := []
  sink := []
  rsp := []
  txOut := []
  freeCount := 0

/-- The machine right after reset, with the parameters of the test vectors (log 1). -/
def State.reset : State := State.resetWith Config.default

end Sys2Proof.Machine
end

