-- ==== Sys2Proof/Machine/Operands.lean ====
section
/-! DEFINITION. Operand and result forms: zero and sign extension to the 32-bit response words (R8, R45), big-endian
fields (R42, R47), SignExtend (R100), the parsers' cursor (R99). -/

namespace Sys2Proof.Machine

/-- `zext_32` of a byte (R45). -/
def zextByte (b : Byte) : Word := b.setWidth 32

/-- `zext_32` of a 16-bit field (R45). -/
def zextHalf (h : Half) : Word := h.setWidth 32

/-- `zext_32` of a count (R74, R75); every count the PFE returns is below 2^32. -/
def countWord (n : Nat) : Word := BitVec.ofNat 32 n

/-- `zext_32` of one bit (R80). -/
def bitWord (b : Bool) : Word := if b then 1 else 0

/-- `sext_32` of an integer that fits 32 bits (R100). -/
def sextWord (i : Int) : Word := BitVec.ofInt 32 i

/-- Two bytes as a big-endian 16-bit field, the first the high byte (R42). -/
def bigEndian (hi lo : Byte) : Half := hi ++ lo

/-- Bits 15:8, the high byte of a 16-bit field. -/
def highByte (h : Half) : Byte := h.extractLsb' 8 8

/-- Bits 7:0, the low byte of a 16-bit field. -/
def lowByte (h : Half) : Byte := h.extractLsb' 0 8

/-- SignExtend(raw, w) (R100): the low `w` bits of `raw` as two's complement; used for 1 ≤ w ≤ 16 only. -/
def signExtend (raw : Half) (w : Nat) : Int :=
  let v : Nat := raw.toNat % 2 ^ w
  if v.testBit (w - 1) then (v : Int) - 2 ^ w else v

/-- The advanced cursor c' = N + w as a 32-bit number (R99 b). -/
def cursorAfter (n : Half) (w : Nat) : Word := countWord (n.toNat + w)

end Sys2Proof.Machine
end

