-- ==== Sys2Proof/Machine/Flags.lean ====
section
/-! DEFINITION. The checksum (R22, R59), the acceptance test (R84), the status codes (R66) and the GETSTAT word (R94). -/

namespace Sys2Proof.Machine

/-- The first sync byte (R57). -/
def sync0 : Byte := 0xAA

/-- The second sync byte (R57). -/
def sync1 : Byte := 0x55

/-- The accumulator after adding these bytes in order, each addition mod 256 (R22). -/
def addToSum (c : Byte) (bytes : List Byte) : Byte := bytes.foldl (· + ·) c

/-- The sum of these bytes as an exact number. -/
def byteTotal (bytes : List Byte) : Nat := (bytes.map BitVec.toNat).sum

/-- The checksum byte a sender appends: (256 - (sum of all preceding bytes mod 256)) mod 256 (R59). -/
def checksumByte (bytes : List Byte) : Byte := BitVec.ofNat 8 ((256 - byteTotal bytes % 256) % 256)

/-- The acceptance test on a completed frame: DEST = MY_ID and CSUM = 0 (R84). -/
def accepts (s : State) : Bool := s.dest == s.cfg.myId && s.csum == 0

/-- PSTATE as a bit (R18). -/
def PState.bit : PState → Bool
  | .searchingHeader => false
  | .headerValid => true

/-- The GETSTAT value, PKT_VALID in bit 1 and PSTATE in bit 0 (R94). -/
def statWord (s : State) : Word := bitWord s.pktValid * 2 + bitWord s.pstate.bit

/-- The 4-bit codes of R66. -/
def Status.code : Status → BitVec 4
  | .ok => 0x0
  | .emptyBuffer => 0x1
  | .duplexMismatch => 0x2
  | .transportBroken => 0x3
  | .unknownPacketType => 0x4
  | .logMessage => 0x5
  | .noPacket => 0x6
  | .outOfRange => 0x7
  | .badOperand => 0x8
  | .illegalCommand => 0xF

end Sys2Proof.Machine
end

