-- ==== Sys2Proof/Machine/Ops.lean ====
section
/-! DEFINITION. The named operations over buffers, ring, responses and the outbound channel that the commands share.
The PFE takes no exception (R109): every abnormal condition is the status of the command's own response, so the shared
"entry" is `raise` (R10), after which nothing is saved or restored (R117). -/

namespace Sys2Proof.Machine

/-- The canonical form of a buffer: indices strictly rising from `lo`, no listed byte 0. -/
def Memory.wfFrom (lo : Nat) : Memory → Bool
  | [] => true
  | (a, b) :: m => decide (lo ≤ a) && b != 0 && Memory.wfFrom (a + 1) m

/-- The canonical form of a buffer. -/
def Memory.wf (m : Memory) : Bool := Memory.wfFrom 0 m

/-- Every listed index is below `size`: the buffer has no other cell (R24, R27). -/
def Memory.within (size : Nat) (m : Memory) : Bool := m.all fun c => decide (c.1 < size)

/-- One byte of a buffer; an unlisted cell reads as 0 (log 3). -/
def Memory.read (m : Memory) (a : Nat) : Byte :=
  match m with
  | [] => 0
  | (a', b) :: rest => if a' = a then b else Memory.read rest a

/-- A cell in front of a buffer, left out where it holds what an unlisted cell reads as. -/
def Memory.cons (a : Nat) (b : Byte) (m : Memory) : Memory := if b = 0 then m else (a, b) :: m

/-- Write one byte, keeping the canonical form. -/
def Memory.write (m : Memory) (a : Nat) (v : Byte) : Memory :=
  match m with
  | [] => Memory.cons a v []
  | (a', b) :: rest =>
    if a < a' then Memory.cons a v ((a', b) :: rest)
    else if a = a' then Memory.cons a v rest
    else (a', b) :: Memory.write rest a v

/-- Write these bytes at consecutive indices from `a`, one byte at a time (R48). -/
def Memory.writeFrom (m : Memory) (a : Nat) (bytes : List Byte) : Memory :=
  match bytes with
  | [] => m
  | b :: rest => Memory.writeFrom (Memory.write m a b) (a + 1) rest

/-- PayRead(i, n) for n = 1 (R47). -/
def payByte (s : State) (i : Nat) : Byte := s.payload.read i

/-- PayRead(i, n) for n = 2, big-endian (R47). -/
def payHalf (s : State) (i : Nat) : Half := bigEndian (s.payload.read i) (s.payload.read (i + 1))

/-- The PFE takes a command (R32): none is in progress. -/
def cmdReady (s : State) : Bool := s.sending.isNone

/-- The PFE takes an RX byte (R30): no command is in progress. -/
def rxReady (s : State) : Bool := s.sending.isNone

/-- Deliver a response (R10, R34). -/
def respond (st : Status) (value aux : Word) (bytes : List Byte) (s : State) : State :=
  { s with rsp := s.rsp ++ [⟨st, value, aux, bytes⟩] }

/-- Deliver a response whose value is any value (R67): one free value is drawn (log 4). -/
def respondAnyValue (st : Status) (aux : Word) (s : State) : State :=
  { respond st (Config.freeWord s.freeCount) aux [] s with freeCount := s.freeCount + 1 }

/-- `raise <Status>`: end the command with any value, any value and no bytes (R10); two free values are drawn (log 4).
This is all an abnormal condition does: no state is saved and no mode changes (R109). -/
def raise (st : Status) (s : State) : State :=
  { respond st (Config.freeWord s.freeCount) (Config.freeWord (s.freeCount + 1)) [] s with
    freeCount := s.freeCount + 2 }

/-- The answer of GETDEST, GETSRC, GETTYPE, GETLEN and GETPAY while PKT_VALID = 0: any value, and the aux 0 that R87
states, R67 making it any value only where no rule does; R110's row says any value. DEDUCED, log 11, unsafe. -/
def raiseNoPacket (s : State) : State := respondAnyValue .noPacket 0 s

/-- Append one byte to Q; on a full ring the oldest unread byte is discarded silently (R40, R41, R71). -/
def ringAppend (b : Byte) (s : State) : State :=
  { s with q := (if s.q.length = s.cfg.rbCap then s.q.drop 1 else s.q) ++ [b] }

/-- Empty Q (R76); storage cells are hidden state (R17). -/
def ringReset (s : State) : State := { s with q := [] }

/-- Remove the k oldest bytes of Q (R49, R74). -/
def ringDrop (k : Nat) (s : State) : State := { s with q := s.q.drop k }

/-- Connection teardown as the PFE sees it (R95). -/
def teardown (s : State) : State :=
  { s with q := [], pstate := .searchingHeader, pktValid := false }

/-- Resync() (R82): discard bytes up to the next 0xAA, which stays, or to the end; count one resync. -/
def resync (s : State) : State :=
  { s with q := s.q.dropWhile (· != sync0), resyncCnt := s.resyncCnt + 1 }

/-- DetectHeader() (R81). The flag is true for HeaderReady. A first or second byte that is no sync byte stays
consumed (R86). -/
def detectHeader (s : State) : State × Bool :=
  match s.q with
  | b0 :: b1 :: d :: sr :: ty :: hi :: lo :: rest =>
    if b0 ≠ sync0 then
      (resync { s with csum := 0, q := b1 :: d :: sr :: ty :: hi :: lo :: rest }, false)
    else if b1 ≠ sync1 then
      (resync { s with csum := 0, q := d :: sr :: ty :: hi :: lo :: rest }, false)
    else
      ({ s with
          csum := addToSum 0 [b0, b1, d, sr, ty, hi, lo], dest := d, src := sr, typ := ty,
          plen := bigEndian hi lo, trem := (bigEndian hi lo).setWidth 17 + 1,
          pstate := .headerValid, q := rest }, true)
  | _ => (s, false)

/-- ConsumeTrailing() (R83): PLEN payload bytes and the checksum byte, all added to CSUM. -/
def consumeTrailing (s : State) : Host.Outcome State Fault Refusal :=
  match s.q.drop s.plen.toNat with
  | [] => .fault .popOnEmpty
  | c :: rest =>
    .next { s with
      payload := s.payload.writeFrom 0 (s.q.take s.plen.toNat), chkByte := c,
      csum := addToSum s.csum (s.q.take s.plen.toNat ++ [c]), q := rest }

/-- The end of a POLL whose frame is complete (R80): back to SearchingHeader, PKT_VALID as the acceptance test says. -/
def finishFrame (s : State) : State :=
  respond .ok (bitWord (accepts s)) 0 [] { s with pstate := .searchingHeader, pktValid := accepts s }

/-- The part of POLL that runs with PSTATE = HeaderValid (R80): wait, or consume the trailing bytes and decide. -/
def pollTrailing (s : State) : Host.Outcome State Fault Refusal :=
  if s.q.length < s.trem.toNat then .next (respond .ok 0 0 [] s)
  else
    match consumeTrailing s with
    | .next s' => .next (finishFrame s')
    | .fault r => .fault r
    | .refused r => .refused r

/-- The 7 header bytes of an outbound frame: the source id is always MY_ID (R57, R104). -/
def headerBytes (c : Config) (destId typeCode : Byte) (len : Half) : List Byte :=
  [sync0, sync1, destId, c.myId, typeCode, highByte len, lowByte len]

/-- Write these bytes to Scratch from offset 0 (R104, R105, R108); there is no cell at or past SCRATCH_CAP (log 13). -/
def writeScratch (bytes : List Byte) (s : State) : Host.Outcome State Fault Refusal :=
  if bytes.length ≤ s.cfg.scratchCap then .next { s with scratch := s.scratch.writeFrom 0 bytes }
  else .fault .outsideScratch

/-- How many text bytes of n fit the frame: the text is truncated, not the terminator (R105). -/
def keptLength (c : Config) (n : Nat) : Nat := min n (c.scratchCap - 9)

/-- The frame of a text: header, kept text, 0x00 terminator, checksum byte (R105). -/
def textFrame (c : Config) (destId typeCode : Byte) (text : List Byte) : List Byte :=
  let keep := keptLength c text.length
  let body := headerBytes c destId typeCode (BitVec.ofNat 16 (keep + 1)) ++ text.take keep ++ [0]
  body ++ [checksumByte body]

/-- Offer bytes to the transport in order: the bytes it takes, the answers left, and whether it broke (R35, R106). -/
def sinkTake (bytes : List Byte) (answers : List SinkAnswer) : List Byte × List SinkAnswer × Bool :=
  match bytes, answers with
  | [], as => ([], as, false)
  | _ :: _, [] => ([], [], false)
  | _ :: _, .broken :: as => ([], as, true)
  | b :: bs, .take :: as =>
    (b :: (sinkTake bs as).1, (sinkTake bs as).2.1, (sinkTake bs as).2.2)

/-- Transmit(f) from its byte `sent` on, and SENDTEXT's response if it ends (R105, R106): all bytes taken, broken
after k bytes, or waiting for the transport. -/
def transmit (frame : List Byte) (sent : Nat) (s : State) : State :=
  let r := sinkTake (frame.drop sent) s.sink
  let k := sent + r.1.length
  let s' := { s with txOut := s.txOut ++ r.1, sink := r.2.1 }
  if r.2.2 then
    respond .transportBroken (countWord frame.length) (countWord k) [] { s' with sending := none }
  else if k < frame.length then { s' with sending := some (.transmit frame k) }
  else respond .ok (countWord frame.length) (countWord frame.length) [] { s' with sending := none }

/-- SENDTEXT from its text on (R33, R105): take the text bytes still missing; if some stay missing, wait; else build
the frame in Scratch and transmit it. -/
def collectText (destId typeCode : Byte) (n : Half) (taken : List Byte) (s : State) :
    Host.Outcome State Fault Refusal :=
  let need := n.toNat - taken.length
  let t := taken ++ s.text.take need
  let s' := { s with text := s.text.drop need }
  if t.length < n.toNat then .next { s' with sending := some (.awaitText destId typeCode n t) }
  else
    match writeScratch (textFrame s.cfg destId typeCode t) s' with
    | .next s'' => .next (transmit (textFrame s.cfg destId typeCode t) 0 s'')
    | .fault r => .fault r
    | .refused r => .refused r

end Sys2Proof.Machine
end

