-- ==== Sys2Proof/Machine/Framing.lean ====
section
/-! DEFINITION. The Framing Engine commands: POLL (R79 to R86), the accessors (R87 to R92), the diagnostics (R93, R94)
and CLEAR (R95). -/

namespace Sys2Proof.Machine

/-- POLL (R80): the accessor window closes; header detection if searching; then, with a header, the trailing bytes. -/
def execPoll (s : State) : Host.Outcome State Fault Refusal :=
  let s1 := { s with pktValid := false }
  match s1.pstate with
  | .searchingHeader =>
    match detectHeader s1 with
    | (s2, false) => .next (respond .ok 0 0 [] s2)
    | (s2, true) => pollTrailing s2
  | .headerValid => pollTrailing s1

/-- GETDEST (R88). -/
def execGetDest (s : State) : Host.Outcome State Fault Refusal :=
  if s.pktValid then .next (respond .ok (zextByte s.dest) 0 [] s) else .next (raiseNoPacket s)

/-- GETSRC (R89). -/
def execGetSrc (s : State) : Host.Outcome State Fault Refusal :=
  if s.pktValid then .next (respond .ok (zextByte s.src) 0 [] s) else .next (raiseNoPacket s)

/-- GETTYPE (R90). -/
def execGetType (s : State) : Host.Outcome State Fault Refusal :=
  if s.pktValid then .next (respond .ok (zextByte s.typ) 0 [] s) else .next (raiseNoPacket s)

/-- GETLEN (R91). -/
def execGetLen (s : State) : Host.Outcome State Fault Refusal :=
  if s.pktValid then .next (respond .ok (zextHalf s.plen) 0 [] s) else .next (raiseNoPacket s)

/-- GETPAY (R92). -/
def execGetPay (index : Half) (s : State) : Host.Outcome State Fault Refusal :=
  if s.pktValid then
    if s.plen.toNat ≤ index.toNat then .next (respondAnyValue .outOfRange 0 s)
    else .next (respond .ok (zextByte (payByte s index.toNat)) 0 [] s)
  else .next (raiseNoPacket s)

/-- GETRESYNC (R93). -/
def execGetResync (s : State) : Host.Outcome State Fault Refusal :=
  .next (respond .ok s.resyncCnt 0 [] s)

/-- GETSTAT (R94). -/
def execGetStat (s : State) : Host.Outcome State Fault Refusal :=
  .next (respond .ok (statWord s) 0 [] s)

/-- CLEAR (R95). -/
def execClear (s : State) : Host.Outcome State Fault Refusal :=
  .next (respond .ok 0 0 [] (teardown s))

end Sys2Proof.Machine
end

