-- ==== Sys2Proof/Machine/Outbound.lean ====
section
/-! DEFINITION. The outbound commands (R104, R105). No outbound command reads or writes receive-side state but MY_ID (R108). -/

namespace Sys2Proof.Machine

/-- BUILDHDR (R104): write the header to Scratch[0..6] and echo it; 7 is the next free slot. -/
def execBuildHdr (destId typeCode : Byte) (payloadLength : Half) (s : State) :
    Host.Outcome State Fault Refusal :=
  let hdr := headerBytes s.cfg destId typeCode payloadLength
  match writeScratch hdr s with
  | .next s' => .next (respond .ok 7 0 hdr s')
  | .fault r => .fault r
  | .refused r => .refused r

/-- SENDTEXT (R105): take N text bytes, build the frame, transmit it. Where the text or the transport keeps it
waiting (U10, U11) it stays in progress and `resumeSend` goes on with it. -/
def execSendText (destId typeCode : Byte) (textLength : Half) (s : State) :
    Host.Outcome State Fault Refusal :=
  collectText destId typeCode textLength [] s

end Sys2Proof.Machine
end

