-- ==== Sys2Proof/Machine/Parsers.lean ====
section
/-! DEFINITION. The field parser commands (R99 to R103). The cursor is the host's (R99): it comes in N and goes out in aux.
Statuses are decided in the order of R114. -/

namespace Sys2Proof.Machine

/-- PARSES8 (R101). -/
def execParseS8 (cursor : Half) (s : State) : Host.Outcome State Fault Refusal :=
  if s.pktValid then
    if s.plen.toNat < cursor.toNat + 1 then
      .next (respondAnyValue .outOfRange (cursorAfter cursor 1) s)
    else
      .next (respond .ok (sextWord (signExtend ((payByte s cursor.toNat).setWidth 16) 8))
        (cursorAfter cursor 1) [] s)
  else .next (raise .noPacket s)

/-- PARSEDUP (R102): the primary value in both cases; a mismatch is a status. -/
def execParseDup (cursor : Half) (s : State) : Host.Outcome State Fault Refusal :=
  if s.pktValid then
    if s.plen.toNat < cursor.toNat + 4 then
      .next (respondAnyValue .outOfRange (cursorAfter cursor 4) s)
    else
      let p := signExtend (payHalf s cursor.toNat) 16
      let d := signExtend (payHalf s (cursor.toNat + 2)) 16
      .next (respond (if p = d then .ok else .duplexMismatch) (sextWord p) (cursorAfter cursor 4) [] s)
  else .next (raise .noPacket s)

/-- SEXT (R103): not gated by PKT_VALID. -/
def execSext (bitWidth : Byte) (raw : Half) (s : State) : Host.Outcome State Fault Refusal :=
  if bitWidth.toNat < 1 ∨ 16 < bitWidth.toNat then .next (raise .badOperand s)
  else .next (respond .ok (sextWord (signExtend raw bitWidth.toNat)) 0 [] s)

end Sys2Proof.Machine
end

