-- ==== Sys2Proof/Machine/Ring.lean ====
section
/-! DEFINITION. The Ring Buffer commands (R71 to R78). -/

namespace Sys2Proof.Machine

/-- APPEND (R71). -/
def execAppend (value : Byte) (s : State) : Host.Outcome State Fault Refusal :=
  .next (respond .ok 0 0 [] (ringAppend value s))

/-- RETRIEVE (R72). -/
def execRetrieve (s : State) : Host.Outcome State Fault Refusal :=
  match s.q with
  | [] => .next (raise .emptyBuffer s)
  | b :: _ => .next (respond .ok (zextByte b) 0 [] (ringDrop 1 s))

/-- PEEK (R73). -/
def execPeek (s : State) : Host.Outcome State Fault Refusal :=
  match s.q with
  | [] => .next (raise .emptyBuffer s)
  | b :: _ => .next (respond .ok (zextByte b) 0 [] s)

/-- READUPTO (R74). -/
def execReadUpTo (maxCount : Half) (s : State) : Host.Outcome State Fault Refusal :=
  let k := min maxCount.toNat s.q.length
  .next (respond .ok (countWord k) 0 (s.q.take k) (ringDrop k s))

/-- AVAILABLE (R75). -/
def execAvailable (s : State) : Host.Outcome State Fault Refusal :=
  .next (respond .ok (countWord s.q.length) 0 [] s)

/-- RBRESET (R76). -/
def execRbReset (s : State) : Host.Outcome State Fault Refusal :=
  .next (respond .ok 0 0 [] (ringReset s))

end Sys2Proof.Machine
end

