-- ==== Sys2Proof/Machine/Dispatch.lean ====
section
/-! DEFINITION. One arm per command (R64). -/

namespace Sys2Proof.Machine

def exec (i : Instr) (s : State) : Host.Outcome State Fault Refusal :=
  match i with
  | .append v => Sys2Proof.Machine.execAppend v s
  | .retrieve => Sys2Proof.Machine.execRetrieve s
  | .peek => Sys2Proof.Machine.execPeek s
  | .readUpTo n => Sys2Proof.Machine.execReadUpTo n s
  | .available => Sys2Proof.Machine.execAvailable s
  | .rbReset => Sys2Proof.Machine.execRbReset s
  | .poll => Sys2Proof.Machine.execPoll s
  | .getDest => Sys2Proof.Machine.execGetDest s
  | .getSrc => Sys2Proof.Machine.execGetSrc s
  | .getType => Sys2Proof.Machine.execGetType s
  | .getLen => Sys2Proof.Machine.execGetLen s
  | .getPay n => Sys2Proof.Machine.execGetPay n s
  | .getResync => Sys2Proof.Machine.execGetResync s
  | .getStat => Sys2Proof.Machine.execGetStat s
  | .clear => Sys2Proof.Machine.execClear s
  | .parseS8 n => Sys2Proof.Machine.execParseS8 n s
  | .parseDup n => Sys2Proof.Machine.execParseDup n s
  | .sext w n => Sys2Proof.Machine.execSext w n s
  | .buildHdr d t n => Sys2Proof.Machine.execBuildHdr d t n s
  | .sendText d t n => Sys2Proof.Machine.execSendText d t n s

end Sys2Proof.Machine
end

