-- ==== Sys2Proof/Machine/Events.lean ====
section
/-! DEFINITION. The steps that are not commands: an RX byte (R30), a `clear` pulse (R31), an illegal command word (R65),
power-on reset (R121), the continuation of a waiting SENDTEXT (R33, R106); and what the outside may add to the ports. -/

namespace Sys2Proof.Machine

/-- A byte on the RX channel: APPEND without a response (R30, R71). -/
def takeRx (b : Byte) (s : State) : State := ringAppend b s

/-- A pulse on the `clear` input: CLEAR without a response (R31, R95). -/
def takeClear (s : State) : State := teardown s

/-- An illegal command word: IllegalCommand, any value, any value; no state changes and no text byte is taken (R65). -/
def illegalCommand (s : State) : State := raise .illegalCommand s

/-- Power-on reset during a run (R121): Q, PSTATE, PKT_VALID and RESYNC_CNT as R38 says, every other register and
buffer a free value, MY_ID and the parameters unchanged. A SENDTEXT in progress is abandoned without a response:
DEDUCED, log 10. -/
def powerOn (s : State) : State :=
  let f := fun k => Config.freeWord (s.freeCount + k)
  { s with
    q := [], pstate := .searchingHeader, pktValid := false, resyncCnt := 0,
    dest := (f 0).setWidth 8, src := (f 1).setWidth 8, typ := (f 2).setWidth 8,
    plen := (f 3).setWidth 16, trem := (f 4).setWidth 17, csum := (f 5).setWidth 8,
    chkByte := (f 6).setWidth 8,
    payload := Memory.writeFrom [] 0 ((Config.freeBytes s.freeCount).take 65535),
    scratch := Memory.writeFrom [] 0 ((Config.freeBytes (s.freeCount + 1)).take s.cfg.scratchCap),
    sending := none, freeCount := s.freeCount + 7 }

/-- Go on with the SENDTEXT in progress, with the text bytes and transport answers that are there now. -/
def resumeSend (p : Sending) (s : State) : Host.Outcome State Fault Refusal :=
  match p with
  | .awaitText d t n taken => collectText d t n taken s
  | .transmit frame sent => .next (transmit frame sent s)

/-- The outside adds events after those already waiting. Not a step of the machine: the environment's move between
steps (R52). -/
def offerEvents (es : List Event) (s : State) : State := { s with inputs := s.inputs ++ es }

/-- The host offers text bytes on the text channel (R33). Not a step. -/
def offerText (bytes : List Byte) (s : State) : State := { s with text := s.text ++ bytes }

/-- The transport's further answers (R106). Not a step. -/
def offerAnswers (answers : List SinkAnswer) (s : State) : State := { s with sink := s.sink ++ answers }

end Sys2Proof.Machine
end

