-- ==== Sys2Proof/Machine/Step.lean ====
section
/-! DEFINITION. One step of the PFE: one command, one RX byte, one `clear` pulse, one power-on reset, or the
continuation of a waiting SENDTEXT (R14, R51). -/

namespace Sys2Proof.Machine

/-- Run the command a word stands for, or answer IllegalCommand (R64, R65). -/
def runCommand (w : CmdWord) (s : State) : Host.Outcome State Fault Refusal :=
  match decode w with
  | .ok i => exec i s
  | .error _ => .next (illegalCommand s)

/-- One step. A power-on reset is taken at once (log 10); while a SENDTEXT is in progress nothing else is taken from
the ports (R30, R32, R51, R135); otherwise the next event of the order is taken (R52), and with none the PFE waits
(R123). -/
def step (s : State) : Host.Outcome State Fault Refusal :=
  match s.inputs, s.sending with
  | .powerOn :: rest, _ => .next (powerOn { s with inputs := rest })
  | _, some p => resumeSend p s
  | [], none => .next s
  | .command w :: rest, none => runCommand w { s with inputs := rest }
  | .rx b :: rest, none => .next (takeRx b { s with inputs := rest })
  | .clear :: rest, none => .next (takeClear { s with inputs := rest })

/-- The host offers this command word before every other event, and no SENDTEXT is in progress: the next step runs
it (log 6). -/
def State.withFetchWord (s : State) (nbits w : Nat) : State :=
  { s with inputs := .command (BitVec.ofNat 40 (w % 2 ^ nbits)) :: s.inputs, sending := none }

end Sys2Proof.Machine
end

