-- ==== Sys2Proof/WellFormed.lean ====
section
/-! DEFINITION. The checks on what a model is given: the parameters' ranges (R6) and the lines of a program (R69).
A command has no ill-formed term: each operand's width is its type's, and R62 gives every value of a field a meaning
(a SEXT width outside 1..16 is a command that answers BadOperand, R103). The check on a raw command word
(its unused fields are zero, R63) is `Decode.lean`'s `unusedFieldsZero`. -/

namespace Sys2Proof

/-- The parameters lie in the ranges of R6. -/
def Config.valid (c : Config) : Bool :=
  decide (1 ≤ c.rbCap) && decide (c.rbCap ≤ 2 ^ 32 - 1) &&
    decide (9 ≤ c.scratchCap) && decide (c.scratchCap ≤ 65543)

/-- A line can be assembled: a SENDTEXT is written with its text, and the text's length fits the 16-bit N (R69). -/
def Line.wellFormed : Line → Bool
  | .command (.sendText _ _ _) => false
  | .command _ => true
  | .sendText _ _ text => decide (text.length < 2 ^ 16)
  | .feed _ => true
  | .rx _ => true
  | .clear => true

end Sys2Proof
end

