-- ==== Sys2Proof/Machine/Assembler.lean ====
section
/-! DEFINITION. The spec's assembler (R69, R70): a line's text, the line it is, and the events and text bytes it stands for.
Byte sequences are space-separated two-digit hex (R8); a string's characters are ASCII (G2, log 15). -/

namespace Sys2Proof.Machine

/-- What a line puts on the ports, in order (R70): its command words, RX bytes or `clear` pulse. -/
def lineEvents : Line → List Event
  | .command i => [.command (encode i)]
  | .sendText d t text => [.command (encode (.sendText d t (BitVec.ofNat 16 text.length)))]
  | .feed bytes => bytes.map fun b => .command (encode (.append b))
  | .rx bytes => bytes.map .rx
  | .clear => [.clear]

/-- What a line puts on the text channel (R69). -/
def lineText : Line → List Byte
  | .sendText _ _ text => text
  | .command _ => []
  | .feed _ => []
  | .rx _ => []
  | .clear => []

/-- A program offered to the ports, line by line. -/
def offerProgram (lines : List Line) (s : State) : State :=
  offerText (lines.flatMap lineText) (offerEvents (lines.flatMap lineEvents) s)

/-- A hexadecimal digit. -/
def hexDigit (c : Char) : Option Nat :=
  let n := c.toNat
  if 48 ≤ n ∧ n ≤ 57 then some (n - 48)
  else if 65 ≤ n ∧ n ≤ 70 then some (n - 55)
  else if 97 ≤ n ∧ n ≤ 102 then some (n - 87)
  else none

/-- Digits in a base, most significant first, after the value read so far. -/
def digitsIn (base acc : Nat) : List Char → Option Nat
  | [] => some acc
  | c :: cs =>
    match hexDigit c with
    | some d => if d < base then digitsIn base (acc * base + d) cs else none
    | none => none

/-- A number, decimal or `0x` hex (R69). -/
def parseNumber : List Char → Option Nat
  | [] => none
  | '0' :: 'x' :: [] => none
  | '0' :: 'x' :: ds => digitsIn 16 0 ds
  | ds => digitsIn 10 0 ds

/-- A word not empty in front of tokens; its characters are held last first. -/
def flushWord (cur : List Char) (ts : List Token) : List Token :=
  if cur.isEmpty then ts else .word cur.reverse :: ts

/-- A line's tokens. `cur` is the word being read and `str` the string being read, last character first;
a comment starts with `;` outside a string (R69). -/
def tokensFrom (cs cur : List Char) (str : Option (List Char)) : Option (List Token) :=
  match cs, str with
  | [], none => some (flushWord cur [])
  | [], some _ => none
  | c :: rest, some body =>
    if c.toNat = 34 then (tokensFrom rest [] none).map (.str body.reverse :: ·)
    else if 32 ≤ c.toNat ∧ c.toNat ≤ 126 then tokensFrom rest [] (some (c :: body))
    else none
  | c :: rest, none =>
    if c = ';' then some (flushWord cur [])
    else if c.toNat = 32 ∨ c.toNat = 9 then (tokensFrom rest [] none).map (flushWord cur)
    else if c = ',' then (tokensFrom rest [] none).map fun ts => flushWord cur (.comma :: ts)
    else if c = '[' then (tokensFrom rest [] none).map fun ts => flushWord cur (.opening :: ts)
    else if c = ']' then (tokensFrom rest [] none).map fun ts => flushWord cur (.closing :: ts)
    else if c.toNat = 34 then
      if cur.isEmpty then tokensFrom rest [] (some []) else none
    else tokensFrom rest (c :: cur) none

/-- Bytes as two-digit hex words (R8), to the end of the tokens. -/
def parseBytes : List Token → Option (List Byte)
  | [] => some []
  | .word [h, l] :: ts =>
    match digitsIn 16 0 [h, l], parseBytes ts with
    | some n, some bs => some (BitVec.ofNat 8 n :: bs)
    | _, _ => none
  | _ => none

/-- An operand that fits in `width` bits. -/
def operand (width : Nat) (cs : List Char) : Option (BitVec width) :=
  match parseNumber cs with
  | some n => if n < 2 ^ width then some (BitVec.ofNat width n) else none
  | none => none

/-- The text operand of SENDTEXT: a quoted string or a bracketed list of byte values (R69). -/
def parseText : List Token → Option (List Byte)
  | [.str cs] => some (cs.map fun c => BitVec.ofNat 8 c.toNat)
  | .opening :: ts => if ts.getLast? = some .closing then parseBytes ts.dropLast else none
  | _ => none

/-- A line with one operand of N. -/
def lineN (f : Half → Instr) : List Token → Option Line
  | [.word n] => (operand 16 n).map fun v => .command (f v)
  | _ => none

/-- A line with no operand. -/
def line0 (i : Instr) : List Token → Option Line
  | [] => some (.command i)
  | _ => none

/-- A line's meaning from its mnemonic and its operands' tokens (R69, R70). -/
def parseOperands (mnemonic : String) (ts : List Token) : Option Line :=
  match mnemonic with
  | "APPEND" =>
    match ts with
    | [.word v] => (operand 8 v).map fun v => .command (.append v)
    | _ => none
  | "RETRIEVE" => line0 .retrieve ts
  | "PEEK" => line0 .peek ts
  | "READUPTO" => lineN .readUpTo ts
  | "AVAILABLE" => line0 .available ts
  | "RBRESET" => line0 .rbReset ts
  | "POLL" => line0 .poll ts
  | "GETDEST" => line0 .getDest ts
  | "GETSRC" => line0 .getSrc ts
  | "GETTYPE" => line0 .getType ts
  | "GETLEN" => line0 .getLen ts
  | "GETPAY" => lineN .getPay ts
  | "GETRESYNC" => line0 .getResync ts
  | "GETSTAT" => line0 .getStat ts
  | "CLEAR" => line0 .clear ts
  | "PARSES8" => lineN .parseS8 ts
  | "PARSEDUP" => lineN .parseDup ts
  | "SEXT" =>
    match ts with
    | [.word w, .comma, .word n] =>
      match operand 8 w, operand 16 n with
      | some w, some n => some (.command (.sext w n))
      | _, _ => none
    | _ => none
  | "BUILDHDR" =>
    match ts with
    | [.word d, .comma, .word t, .comma, .word n] =>
      match operand 8 d, operand 8 t, operand 16 n with
      | some d, some t, some n => some (.command (.buildHdr d t n))
      | _, _, _ => none
    | _ => none
  | "SENDTEXT" =>
    match ts with
    | .word d :: .comma :: .word t :: .comma :: body =>
      match operand 8 d, operand 8 t, parseText body with
      | some d, some t, some text => some (.sendText d t text)
      | _, _, _ => none
    | _ => none
  | "FEED" => (parseBytes ts).map .feed
  | "rx" => (parseBytes ts).map .rx
  | "clear" => if ts.isEmpty then some .clear else none
  | _ => none

/-- The line a text is: none where it is no line, an empty list where it is blank or a comment only (R69, R70). -/
def parseLine (cs : List Char) : Option (List Line) :=
  match tokensFrom cs [] none with
  | none => none
  | some [] => some []
  | some (.word m :: ts) =>
    match parseOperands (String.ofList m) ts with
    | some l => if l.wellFormed then some [l] else none
    | none => none
  | some _ => none

end Sys2Proof.Machine
end

