-- ==== Sys2Proof/Safety.lean ====
section
/-! DEFINITION. The terms claims use: the invariant of every state a run reaches, the power-on states (R38), the states that
no response can tell apart (R38, U1, U2), and runs of commands. -/

namespace Sys2Proof.Machine

/-- The first `n` bytes of Payload, in order (R24). -/
def payloadBytes (s : State) (n : Nat) : List Byte := (List.range n).map s.payload.read

/-- The header bytes the header registers stand for (R57). -/
def headerOf (s : State) : List Byte :=
  [sync0, sync1, s.dest, s.src, s.typ, highByte s.plen, lowByte s.plen]

/-- The whole frame of a completed packet: header, payload, checksum byte (R58). -/
def frameOf (s : State) : List Byte := headerOf s ++ payloadBytes s s.plen.toNat ++ [s.chkByte]

/-- What the PFE keeps true at every step. -/
structure Inv (s : State) : Prop where
  /-- The parameters are in their ranges (R6). -/
  config : s.cfg.valid = true
  /-- 0 ≤ len(Q) ≤ RB_CAP (R15, R16). -/
  occupancy : s.q.length ≤ s.cfg.rbCap
  /-- Payload is in canonical form and has 65535 cells (R24). -/
  payload : s.payload.wf = true ∧ s.payload.within 65535 = true
  /-- Scratch is in canonical form and has SCRATCH_CAP cells (R27). -/
  scratch : s.scratch.wf = true ∧ s.scratch.within s.cfg.scratchCap = true
  /-- In HeaderValid, TREM is PLEN + 1 and CSUM is the sum of the header (R21, R81). -/
  header : s.pstate = .headerValid →
    s.trem.toNat = s.plen.toNat + 1 ∧ s.csum.toNat = byteTotal (headerOf s) % 256
  /-- PKT_VALID = 1 and PSTATE = HeaderValid never hold together (R94). -/
  window : s.pktValid = true → s.pstate = .searchingHeader
  /-- While PKT_VALID = 1 the packet is accepted: addressed to MY_ID, all frame bytes summing to 0 mod 256 (R12, R84). -/
  accepted : s.pktValid = true → s.dest = s.cfg.myId ∧ s.csum = 0 ∧ byteTotal (frameOf s) % 256 = 0
  /-- A SENDTEXT that waits for text lacks some. -/
  awaiting : ∀ d t n taken, s.sending = some (.awaitText d t n taken) → taken.length < n.toNat
  /-- A SENDTEXT that waits for the transport has a frame that stands in Scratch, sums to 0 mod 256 (R59) and has a
  byte left to send. -/
  transmitting : ∀ frame sent, s.sending = some (.transmit frame sent) →
    sent < frame.length ∧ frame.length ≤ s.cfg.scratchCap ∧ byteTotal frame % 256 = 0 ∧
      ∀ j (h : j < frame.length), s.scratch.read j = frame[j]

/-- A state right after power-on reset (R38, R121): the fields R38 leaves at any value are not constrained. -/
structure PowerOnState (s : State) : Prop where
  config : s.cfg.valid = true
  ring : s.q = []
  parser : s.pstate = .searchingHeader
  closed : s.pktValid = false
  counter : s.resyncCnt = 0
  payload : s.payload.wf = true ∧ s.payload.within 65535 = true
  scratch : s.scratch.wf = true ∧ s.scratch.within s.cfg.scratchCap = true
  idle : s.sending = none

/-- Two states that differ only in what R38 and U2 call any value: in SearchingHeader the header registers, with
PKT_VALID = 0 the packet, always CHKBYTE, Scratch and the payload cells at and above PLEN. -/
structure Agree (s t : State) : Prop where
  cfg : s.cfg = t.cfg
  q : s.q = t.q
  pstate : s.pstate = t.pstate
  pktValid : s.pktValid = t.pktValid
  resyncCnt : s.resyncCnt = t.resyncCnt
  sending : s.sending = t.sending
  inputs : s.inputs = t.inputs
  text : s.text = t.text
  sink : s.sink = t.sink
  rsp : s.rsp = t.rsp
  txOut : s.txOut = t.txOut
  freeCount : s.freeCount = t.freeCount
  header : s.pstate = .headerValid →
    s.dest = t.dest ∧ s.src = t.src ∧ s.typ = t.typ ∧ s.plen = t.plen ∧ s.trem = t.trem ∧ s.csum = t.csum
  packet : s.pktValid = true →
    s.dest = t.dest ∧ s.src = t.src ∧ s.typ = t.typ ∧ s.plen = t.plen ∧
      ∀ j, j < s.plen.toNat → s.payload.read j = t.payload.read j

/-- Two outcomes that no response can tell apart. -/
def AgreeOutcome : Host.Outcome State Fault Refusal → Host.Outcome State Fault Refusal → Prop
  | .next s, .next t => Agree s t
  | .fault f, .fault g => f = g
  | .refused f, .refused g => f = g
  | _, _ => False

/-- The receive-side state of two states is the same (R108): everything POLL, the accessors and the ring
commands read or write. -/
structure SameReceive (s t : State) : Prop where
  q : t.q = s.q
  pstate : t.pstate = s.pstate
  dest : t.dest = s.dest
  src : t.src = s.src
  typ : t.typ = s.typ
  plen : t.plen = s.plen
  trem : t.trem = s.trem
  csum : t.csum = s.csum
  chkByte : t.chkByte = s.chkByte
  payload : t.payload = s.payload
  pktValid : t.pktValid = s.pktValid
  resyncCnt : t.resyncCnt = s.resyncCnt

/-- The outbound state of two states is the same (R108): Scratch and the text and TX channels. -/
structure SameOutbound (s t : State) : Prop where
  scratch : t.scratch = s.scratch
  sending : t.sending = s.sending
  text : t.text = s.text
  sink : t.sink = s.sink
  txOut : t.txOut = s.txOut

/-- The frame a sender builds for this payload (R57, R58, R59): header with the big-endian length, payload, and the
checksum byte that makes all bytes sum to 0 mod 256. Stated from the wire format, apart from `textFrame`. -/
def wireFrame (dest src typ : Byte) (payload : List Byte) : List Byte :=
  let body := [0xAA, 0x55, dest, src, typ, BitVec.ofNat 8 (payload.length / 256),
    BitVec.ofNat 8 (payload.length % 256)] ++ payload
  body ++ [BitVec.ofNat 8 ((256 - byteTotal body % 256) % 256)]

/-- The payload SENDTEXT sends for its first `n` text bytes: the kept text and the terminator (R105). -/
def textPayload (s : State) (n : Nat) : List Byte := s.text.take (min n (s.cfg.scratchCap - 9)) ++ [0]

/-- Run these commands one after another, stopping at the first fault or refusal. -/
def execAll (is : List Instr) (s : State) : Host.Outcome State Fault Refusal :=
  match is with
  | [] => .next s
  | i :: rest =>
    match exec i s with
    | .next s' => execAll rest s'
    | .fault r => .fault r
    | .refused r => .refused r

/-- The event releases a held header: CLEAR, a `clear` pulse or a power-on reset (R79, R127). -/
def releases (e : Event) : Bool :=
  match e with
  | .command w => opField w == 0x28
  | .rx _ => false
  | .clear => true
  | .powerOn => true

/-- The next step runs this command: it heads the inputs and no SENDTEXT is in progress (R32). -/
def TakesCommand (i : Instr) (s : State) : Prop :=
  ∃ w rest, s.inputs = .command w :: rest ∧ s.sending = none ∧ decode w = .ok i

end Sys2Proof.Machine
end

