-- ==== Sys2Proof/Certificates/Slice0/Obligations.lean ====
section
/-! DEFINITION. The statements for the provers. A value the spec calls "any value" stands under an existential quantifier
and no statement constrains it; `freeCount` is the model's own counter of such values (log 4). -/

open Sys2Proof Sys2Proof.Machine

/-! ## Encodings -/

/-- Every command's word decodes to the command, whatever its operands (R61 to R64). -/
def Obligations.EncodedCommandDecodesToItself : Prop :=
  ∀ i : Instr, decode (encode i) = .ok i

/-- A decoded word is the encoder's word exactly if the fields its command does not use are zero; the others are read
all the same (R63). -/
def Obligations.DecodedWordIsCanonicalIffUnusedFieldsZero : Prop :=
  ∀ (w : CmdWord) (i : Instr), decode w = .ok i → (encode i = w ↔ unusedFieldsZero w = true)

/-- The fields a command does not use are ignored: two words with the same opcode that agree in the fields the opcode
uses decode alike (R63). -/
def Obligations.UnusedFieldsAreIgnored : Prop :=
  ∀ v w : CmdWord, opField v = opField w → (usesA (opField w) = true → aField v = aField w) →
    (usesB (opField w) = true → bField v = bField w) → (usesN (opField w) = true → nField v = nField w) →
    decode v = decode w

/-- Exactly the opcodes of R65's ranges are rejected, each by name. -/
def Obligations.IllegalOpcodesAreExactlyTheUnassigned : Prop :=
  ∀ w : CmdWord,
    let op := (opField w).toNat
    (op ≤ 0x0F ∨ (0x16 ≤ op ∧ op ≤ 0x1F) ∨ (0x29 ≤ op ∧ op ≤ 0x2F) ∨ (0x33 ≤ op ∧ op ≤ 0x3F) ∨ 0x42 ≤ op) ↔
      decode w = .error (.illegalOpcode (opField w))

/-- Words written out from R64's table, among them 95_test_vectors.md's. -/
def Obligations.SpecWordsDecodeAsWritten : Prop :=
  decode 0x1003000000 = .ok (.append 3) ∧ decode 0x1300000002 = .ok (.readUpTo 2) ∧
  decode 0x2000000000 = .ok .poll ∧ decode 0x250000FFFF = .ok (.getPay 65535) ∧
  decode 0x3100000007 = .ok (.parseDup 7) ∧ decode 0x3208001234 = .ok (.sext 8 0x1234) ∧
  decode 0x40FF101234 = .ok (.buildHdr 255 16 0x1234) ∧ decode 0x4102030002 = .ok (.sendText 2 3 2) ∧
  decode 0x11FFFFFFFF = .ok .retrieve ∧ decode 0x42AABBCCDD = .error (.illegalOpcode 0x42)

/-- What a line of the spec's assembler puts on the ports: FEED one APPEND per byte, `rx` one RX byte per byte, `clear`
one pulse, a SENDTEXT its word with N = the text's length, and its text (R69, R70). -/
def Obligations.LinesStandForTheirCommands : Prop :=
  (∀ bytes : List Byte, ∃ ws : List CmdWord, lineEvents (.feed bytes) = ws.map .command ∧
    ws.map decode = bytes.map fun b => .ok (.append b)) ∧
  (∀ bytes : List Byte, lineEvents (.rx bytes) = bytes.map .rx) ∧ lineEvents .clear = [.clear] ∧
  (∀ (d ty : Byte) (text : List Byte), (Line.sendText d ty text).wellFormed = true → ∃ (w : CmdWord) (n : Half),
    lineEvents (.sendText d ty text) = [.command w] ∧ decode w = .ok (.sendText d ty n) ∧ n.toNat = text.length ∧
    lineText (.sendText d ty text) = text)

/-! ## Steps -/

/-- A command word at the head of the inputs, with no SENDTEXT in progress, is run as the command it decodes to. -/
def Obligations.StepRunsDecodedCommand : Prop :=
  ∀ (s : State) (w : CmdWord) (rest : List Event) (i : Instr),
    s.inputs = .command w :: rest → s.sending = none → decode w = .ok i →
    step s = exec i { s with inputs := rest }

/-- A word whose opcode is in R65's ranges is answered IllegalCommand, any value, any value, no bytes; it changes no
state and takes no text byte (R65). -/
def Obligations.IllegalCommandOnlyAnswers : Prop :=
  ∀ (s : State) (w : CmdWord) (rest : List Event), s.inputs = .command w :: rest → s.sending = none →
    let op := (opField w).toNat
    (op ≤ 0x0F ∨ (0x16 ≤ op ∧ op ≤ 0x1F) ∨ (0x29 ≤ op ∧ op ≤ 0x2F) ∨ (0x33 ≤ op ∧ op ≤ 0x3F) ∨ 0x42 ≤ op) →
    ∃ v a k, step s = .next { s with
      inputs := rest, rsp := s.rsp ++ [⟨.illegalCommand, v, a, []⟩], freeCount := k }

/-- A power-on reset sets Q, PSTATE, PKT_VALID and RESYNC_CNT as R38 says and leaves the parameters; every other
register and buffer may hold any value. That it is taken at once, that it abandons a SENDTEXT, and what it does to the
ports is the model's, log 10. -/
def Obligations.PowerOnResetSetsWhatIsStated : Prop :=
  ∀ (s : State) (rest : List Event), s.inputs = .powerOn :: rest →
    ∃ d sr ty pl tr cs ck pay scr k, step s = .next { s with
      inputs := rest, q := [], pstate := .searchingHeader, pktValid := false, resyncCnt := 0,
      dest := d, src := sr, typ := ty, plen := pl, trem := tr, csum := cs, chkByte := ck,
      payload := pay, scratch := scr, sending := none, freeCount := k }

/-- A step takes at most one event, and the events in their order (R51, R52); with nothing at its ports and no SENDTEXT
in progress the PFE waits (R123). The list of inputs is the model's form of the order, log 5. -/
def Obligations.StepTakesEventsInOrder : Prop :=
  (∀ s t : State, step s = .next t → t.inputs = s.inputs ∨ ∃ e, s.inputs = e :: t.inputs) ∧
  ∀ s : State, s.inputs = [] → s.sending = none → step s = .next s

/-- While a SENDTEXT is in progress, no command, RX byte or `clear` pulse is taken and no receive-side state changes
(R30, R32, R51, R135). A power-on reset is left out, which the model takes even then: its reading, log 10. -/
def Obligations.PortsAreHeldOffWhileSending : Prop :=
  ∀ (s t : State) (p : Sending), s.sending = some p → (∀ rest, s.inputs ≠ .powerOn :: rest) →
    step s = .next t → t.inputs = s.inputs ∧ SameReceive s t

/-! ## Ring Buffer -/

/-- APPEND (R71): as a command, and without a response by a transfer on the RX channel. -/
def Obligations.AppendDropsOldestWhenFull : Prop :=
  ∀ v : Byte, decode (packWord 0x10 v 0 0) = .ok (.append v) ∧ ∀ s : State,
    let q := (if s.q.length = s.cfg.rbCap then s.q.drop 1 else s.q) ++ [v]
    exec (.append v) s = .next { s with q := q, rsp := s.rsp ++ [⟨.ok, 0, 0, []⟩] } ∧
    ∀ rest, s.sending = none → s.inputs = .rx v :: rest → step s = .next { s with inputs := rest, q := q }

/-- RETRIEVE (R72). -/
def Obligations.RetrieveReturnsOldest : Prop :=
  decode 0x1100000000 = .ok .retrieve ∧ ∀ s : State,
    (∀ b rest, s.q = b :: rest → exec .retrieve s = .next { s with
      q := rest, rsp := s.rsp ++ [⟨.ok, b.setWidth 32, 0, []⟩] }) ∧
    (s.q = [] → ∃ v a k, exec .retrieve s = .next { s with
      rsp := s.rsp ++ [⟨.emptyBuffer, v, a, []⟩], freeCount := k })

/-- PEEK (R73). -/
def Obligations.PeekReturnsOldestAndKeepsIt : Prop :=
  decode 0x1200000000 = .ok .peek ∧ ∀ s : State,
    (∀ b rest, s.q = b :: rest → exec .peek s = .next { s with
      rsp := s.rsp ++ [⟨.ok, b.setWidth 32, 0, []⟩] }) ∧
    (s.q = [] → ∃ v a k, exec .peek s = .next { s with
      rsp := s.rsp ++ [⟨.emptyBuffer, v, a, []⟩], freeCount := k })

/-- READUPTO (R74). -/
def Obligations.ReadUpToReturnsOldestBytes : Prop :=
  ∀ n : Half, decode (packWord 0x13 0 0 n) = .ok (.readUpTo n) ∧ ∀ s : State, exec (.readUpTo n) s = .next { s with
    q := s.q.drop (min n.toNat s.q.length),
    rsp := s.rsp ++ [⟨.ok, BitVec.ofNat 32 (min n.toNat s.q.length), 0, s.q.take (min n.toNat s.q.length)⟩] }

/-- READUPTO(n) is k successive RETRIEVEs, k = min(n, len(Q)), but for the responses (R49). -/
def Obligations.ReadUpToIsSuccessiveRetrieves : Prop :=
  ∀ (n : Half) (s : State),
    let k := min n.toNat s.q.length
    ∃ t, execAll (List.replicate k .retrieve) s = .next t ∧
      t.rsp = s.rsp ++ (s.q.take k).map (fun b => ⟨.ok, b.setWidth 32, 0, []⟩) ∧
      exec (.readUpTo n) s = .next { t with
        rsp := s.rsp ++ [⟨.ok, BitVec.ofNat 32 k, 0, s.q.take k⟩] }

/-- AVAILABLE (R75): the occupancy, 0..RB_CAP, exactly. -/
def Obligations.AvailableReturnsOccupancy : Prop :=
  decode 0x1400000000 = .ok .available ∧ ∀ s : State, s.cfg.valid = true → s.q.length ≤ s.cfg.rbCap →
    ∃ v : Word, v.toNat = s.q.length ∧ exec .available s = .next { s with rsp := s.rsp ++ [⟨.ok, v, 0, []⟩] }

/-- RBRESET (R76): Q only. -/
def Obligations.RbResetEmptiesOnlyTheRing : Prop :=
  decode 0x1500000000 = .ok .rbReset ∧ ∀ s : State,
    exec .rbReset s = .next { s with q := [], rsp := s.rsp ++ [⟨.ok, 0, 0, []⟩] }

/-- After more than C unread appends, C retrieves yield exactly the most recent C values, oldest first (R77 b). -/
def Obligations.OverrunKeepsMostRecentBytes : Prop :=
  ∀ (s : State) (bytes : List Byte), s.cfg.valid = true → s.q = [] → s.cfg.rbCap < bytes.length →
    ∃ t, execAll (bytes.map .append ++ List.replicate s.cfg.rbCap .retrieve) s = .next t ∧ t = { s with
      rsp := s.rsp ++ List.replicate bytes.length ⟨.ok, 0, 0, []⟩ ++
        (bytes.drop (bytes.length - s.cfg.rbCap)).map (fun b => ⟨.ok, b.setWidth 32, 0, []⟩) }

/-- Bytes leave Q in the order they entered: after any step Q is Q without its k oldest bytes, then at most one new
byte, which only APPEND or an RX byte brings (R40). -/
def Obligations.RingIsFirstInFirstOut : Prop :=
  ∀ s t : State, step s = .next t →
    ∃ k, t.q = s.q.drop k ∨
      ∃ b, t.q = s.q.drop k ++ [b] ∧
        (TakesCommand (.append b) s ∨ ∃ rest, s.inputs = .rx b :: rest ∧ s.sending = none)

/-! ## POLL -/

/-- With fewer than 7 bytes a searching POLL consumes nothing and answers 0 (R79, R80, R81). -/
def Obligations.PollNeedsSevenBytes : Prop :=
  ∀ s : State, s.pstate = .searchingHeader → s.q.length < 7 →
    exec .poll s = .next { s with pktValid := false, rsp := s.rsp ++ [⟨.ok, 0, 0, []⟩] }

/-- A bad first byte is consumed, a bad second byte too; then bytes are discarded up to the next 0xAA, which stays, or
to the end, and RESYNC_CNT counts one resync (R81, R82). -/
def Obligations.PollResyncsToNextSyncByte : Prop :=
  ∀ (s : State) (b : Byte) (rest : List Byte), s.pstate = .searchingHeader →
    (s.q = b :: rest ∧ 6 ≤ rest.length ∧ b ≠ 0xAA ∨ s.q = 0xAA :: b :: rest ∧ 5 ≤ rest.length ∧ b ≠ 0x55) →
    ∃ discarded left, rest = discarded ++ left ∧ (∀ x ∈ discarded, x ≠ 0xAA) ∧
      (left = [] ∨ ∃ tail, left = 0xAA :: tail) ∧
      exec .poll s = .next { s with
        pktValid := false, csum := 0, q := left, resyncCnt := s.resyncCnt + 1,
        rsp := s.rsp ++ [⟨.ok, 0, 0, []⟩] }

/-- A header with too few bytes after it is taken: the header registers, TREM = PLEN + 1, CSUM, HeaderValid; answer 0
(R79, R81). -/
def Obligations.PollTakesHeaderAndWaits : Prop :=
  ∀ (s : State) (d sr ty hi lo : Byte) (rest : List Byte), s.pstate = .searchingHeader →
    s.q = 0xAA :: 0x55 :: d :: sr :: ty :: hi :: lo :: rest → rest.length < 256 * hi.toNat + lo.toNat + 1 →
    exec .poll s = .next { s with
      pktValid := false, pstate := .headerValid, dest := d, src := sr, typ := ty,
      plen := BitVec.ofNat 16 (256 * hi.toNat + lo.toNat),
      trem := BitVec.ofNat 17 (256 * hi.toNat + lo.toNat + 1),
      csum := BitVec.ofNat 8 (byteTotal [0xAA, 0x55, d, sr, ty, hi, lo]),
      q := rest, rsp := s.rsp ++ [⟨.ok, 0, 0, []⟩] }

/-- A frame wholly in Q with its first byte at the head completes in one POLL, which answers 1 exactly if the frame is
accepted; its payload stands in Payload[0..PLEN-1] and the cells above keep their bytes (R80, R81, R83, R84). -/
def Obligations.PollCompletesWholeFrame : Prop :=
  ∀ (s : State) (d sr ty hi lo c : Byte) (p rest : List Byte), s.pstate = .searchingHeader →
    s.payload.wf = true → p.length = 256 * hi.toNat + lo.toNat →
    s.q = [0xAA, 0x55, d, sr, ty, hi, lo] ++ p ++ c :: rest →
    let total := byteTotal ([0xAA, 0x55, d, sr, ty, hi, lo] ++ p ++ [c])
    let ok := decide (d = s.cfg.myId ∧ total % 256 = 0)
    ∃ m : Memory, exec .poll s = .next { s with
        pktValid := ok, dest := d, src := sr, typ := ty,
        plen := BitVec.ofNat 16 (256 * hi.toNat + lo.toNat),
        trem := BitVec.ofNat 17 (256 * hi.toNat + lo.toNat + 1),
        csum := BitVec.ofNat 8 total, chkByte := c, payload := m, q := rest,
        rsp := s.rsp ++ [⟨.ok, if ok then 1 else 0, 0, []⟩] } ∧
      (∀ j (h : j < p.length), m.read j = p[j]) ∧ ∀ j, p.length ≤ j → m.read j = s.payload.read j

/-- In HeaderValid with fewer than TREM bytes a POLL consumes nothing and answers 0 (R79, R80). -/
def Obligations.PollWaitsForTrailingBytes : Prop :=
  ∀ s : State, s.pstate = .headerValid → s.q.length < s.trem.toNat →
    exec .poll s = .next { s with pktValid := false, rsp := s.rsp ++ [⟨.ok, 0, 0, []⟩] }

/-- In HeaderValid with TREM bytes or more a POLL consumes PLEN payload bytes and the checksum byte, adds them to
CSUM, accepts exactly if DEST = MY_ID and the sum is 0, and returns to SearchingHeader (R79, R80, R83, R84). -/
def Obligations.PollCompletesHeldFrame : Prop :=
  ∀ (s : State) (c : Byte) (p rest : List Byte), s.pstate = .headerValid →
    s.payload.wf = true → s.trem.toNat = s.plen.toNat + 1 → p.length = s.plen.toNat → s.q = p ++ c :: rest →
    let total := s.csum.toNat + byteTotal p + c.toNat
    let ok := decide (s.dest = s.cfg.myId ∧ total % 256 = 0)
    ∃ m : Memory, exec .poll s = .next { s with
        pktValid := ok, pstate := .searchingHeader,
        csum := BitVec.ofNat 8 total, chkByte := c, payload := m, q := rest,
        rsp := s.rsp ++ [⟨.ok, if ok then 1 else 0, 0, []⟩] } ∧
      (∀ j (h : j < p.length), m.read j = p[j]) ∧ ∀ j, p.length ≤ j → m.read j = s.payload.read j

/-- PSTATE changes only by POLL, CLEAR (command or pulse) and power-on reset, and to HeaderValid only by a POLL that
finds 7 bytes beginning 0xAA 0x55 (R18, R79). That a power-on reset takes effect while a SENDTEXT is in progress is the
model's reading, log 10. -/
def Obligations.ParserStateChangesOnlyAsTabulated : Prop :=
  ∀ s t : State, step s = .next t →
    (t.pstate = s.pstate ∨ TakesCommand .poll s ∨
      t.pstate = .searchingHeader ∧ (TakesCommand .clear s ∨
        (∃ rest, s.inputs = .clear :: rest ∧ s.sending = none) ∨ ∃ rest, s.inputs = .powerOn :: rest)) ∧
    (s.pstate = .searchingHeader → t.pstate = .headerValid →
      TakesCommand .poll s ∧ ∃ rest, s.q = 0xAA :: 0x55 :: rest ∧ 5 ≤ rest.length)

/-- RESYNC_CNT counts one resync of a POLL, wraps, is cleared by power-on reset only, and nothing else changes it (R26,
R38, R82, R121). That a power-on reset at the head of the inputs is taken at once, so that it clears the counter even while
a SENDTEXT is in progress, is the model's reading, log 10. -/
def Obligations.ResyncCounterCountsResyncsOnly : Prop :=
  ∀ s t : State, step s = .next t →
    (t.resyncCnt = s.resyncCnt ∧ ∀ rest, s.inputs ≠ .powerOn :: rest) ∨
    ((∃ rest, s.inputs = .powerOn :: rest) ∧ t.resyncCnt = 0) ∨
    (t.resyncCnt = s.resyncCnt + 1 ∧ TakesCommand .poll s ∧ s.pstate = .searchingHeader ∧ 7 ≤ s.q.length ∧
      ¬ ∃ rest, s.q = 0xAA :: 0x55 :: rest)

/-- PKT_VALID is set by an accepting POLL (the one that answers 1), cleared by every other POLL, by CLEAR and by
power-on reset, and changed by nothing else (R25; power-on reset: R38, R121). That a power-on reset at the head of the
inputs is taken at once, so that it closes the window even while a SENDTEXT is in progress, is the model's reading,
log 10. -/
def Obligations.PacketWindowOpensAndCloses : Prop :=
  ∀ s t : State, step s = .next t →
    let closes := TakesCommand .clear s ∨ (∃ rest, s.inputs = .clear :: rest ∧ s.sending = none) ∨
      ∃ rest, s.inputs = .powerOn :: rest
    (TakesCommand .poll s →
      (t.pktValid = true ∧ t.rsp = s.rsp ++ [⟨.ok, 1, 0, []⟩] ∧ t.dest = s.cfg.myId ∧ t.csum = 0) ∨
      (t.pktValid = false ∧ t.rsp = s.rsp ++ [⟨.ok, 0, 0, []⟩])) ∧
    (closes → t.pktValid = false) ∧
    (¬ TakesCommand .poll s → ¬ closes → t.pktValid = s.pktValid)

/-- Round trip, whole frame at once (R96): a frame addressed to MY_ID, appended to an empty ring that holds it, is
accepted by one POLL, and the packet's fields and payload are the frame's. -/
def Obligations.AppendedFrameIsAccepted : Prop :=
  ∀ (s : State) (sr ty : Byte) (p : List Byte), s.q = [] → s.pstate = .searchingHeader → s.payload.wf = true →
    p.length ≤ 65535 → p.length + 8 ≤ s.cfg.rbCap →
    let f := wireFrame s.cfg.myId sr ty p
    ∃ t, execAll (f.map .append ++ [.poll]) s = .next t ∧
      t.rsp = s.rsp ++ List.replicate f.length ⟨.ok, 0, 0, []⟩ ++ [⟨.ok, 1, 0, []⟩] ∧
      t.pktValid = true ∧ t.pstate = .searchingHeader ∧ t.q = [] ∧ t.dest = s.cfg.myId ∧ t.src = sr ∧ t.typ = ty ∧
      t.plen.toNat = p.length ∧ ∀ j (h : j < p.length), t.payload.read j = p[j]

/-- Round trip, byte by byte with a POLL after each byte (R96): every POLL but the last answers 0, the last 1. -/
def Obligations.FrameFedByteByByteIsAccepted : Prop :=
  ∀ (s : State) (sr ty : Byte) (p : List Byte), s.q = [] → s.pstate = .searchingHeader → s.payload.wf = true →
    p.length ≤ 65535 → p.length + 8 ≤ s.cfg.rbCap →
    let f := wireFrame s.cfg.myId sr ty p
    ∃ t, execAll (f.flatMap fun b => [.append b, .poll]) s = .next t ∧
      t.rsp = s.rsp ++ List.replicate (2 * f.length - 1) ⟨.ok, 0, 0, []⟩ ++ [⟨.ok, 1, 0, []⟩] ∧
      t.pktValid = true ∧ t.pstate = .searchingHeader ∧ t.q = [] ∧ t.dest = s.cfg.myId ∧ t.src = sr ∧ t.typ = ty ∧
      t.plen.toNat = p.length ∧ ∀ j (h : j < p.length), t.payload.read j = p[j]

/-- A frame with one byte changed at offset 2, 3, 4 or 7..L+7 is consumed and rejected (R97). -/
def Obligations.OneByteCorruptionIsRejected : Prop :=
  ∀ (s : State) (sr ty b : Byte) (p rest : List Byte) (o : Nat), s.pstate = .searchingHeader → p.length ≤ 65535 →
    let f := wireFrame s.cfg.myId sr ty p
    (o = 2 ∨ o = 3 ∨ o = 4 ∨ 7 ≤ o) → (∀ h : o < f.length, b ≠ f[o]) → o < f.length →
    s.q = f.set o b ++ rest →
    ∃ t, exec .poll s = .next t ∧ t.pktValid = false ∧ t.pstate = .searchingHeader ∧ t.q = rest ∧
      t.rsp = s.rsp ++ [⟨.ok, 0, 0, []⟩]

/-- Garbage without a 0xAA before a frame addressed to MY_ID costs one resyncing POLL; the next POLL accepts the
frame (R98, with all the garbage present). -/
def Obligations.PollRecoversAfterGarbage : Prop :=
  ∀ (s : State) (sr ty : Byte) (g p rest : List Byte), s.pstate = .searchingHeader → s.payload.wf = true →
    p.length ≤ 65535 → g ≠ [] → (∀ x ∈ g, x ≠ 0xAA) → s.q = g ++ wireFrame s.cfg.myId sr ty p ++ rest →
    ∃ t u, exec .poll s = .next t ∧ exec .poll t = .next u ∧
      t.q = wireFrame s.cfg.myId sr ty p ++ rest ∧ t.pktValid = false ∧ t.resyncCnt = s.resyncCnt + 1 ∧
      u.q = rest ∧ u.pktValid = true ∧ u.resyncCnt = s.resyncCnt + 1 ∧ u.src = sr ∧ u.typ = ty ∧
      u.plen.toNat = p.length ∧ ∀ j (h : j < p.length), u.payload.read j = p[j]

/-- A header with TREM above RB_CAP holds the engine: no run without a CLEAR or a power-on reset leaves HeaderValid or
has TREM bytes, and every POLL on the way answers 0 and consumes nothing; RBRESET does not release it (R127). -/
def Obligations.OverlongHeaderIsHeldUntilClear : Prop :=
  ∀ s : State, Inv s → s.pstate = .headerValid → s.cfg.rbCap < s.trem.toNat →
    (∀ e ∈ s.inputs, releases e = false) → ∀ k t, Sys2Proof.core.run k s = .next t →
      t.pstate = .headerValid ∧ t.trem = s.trem ∧ t.q.length < t.trem.toNat ∧
      exec .poll t = .next { t with rsp := t.rsp ++ [⟨.ok, 0, 0, []⟩] }

/-- In a ring of fewer than 7 cells no run ever has 7 bytes, so header detection never starts and every POLL answers 0
and consumes nothing (R128). -/
def Obligations.SmallRingNeverDetects : Prop :=
  ∀ s : State, Inv s → s.cfg.rbCap < 7 → s.pstate = .searchingHeader →
    ∀ k t, Sys2Proof.core.run k s = .next t →
      t.pstate = .searchingHeader ∧ t.q.length < 7 ∧
      exec .poll t = .next { t with pktValid := false, rsp := t.rsp ++ [⟨.ok, 0, 0, []⟩] }

/-! ## Accessors, diagnostics, CLEAR -/

/-- Inside the window GETDEST, GETSRC, GETTYPE and GETLEN return DEST, SRC, TYPE and PLEN and change nothing (R88 to
R91). -/
def Obligations.AccessorsReturnPacketFields : Prop :=
  ∀ s : State, s.pktValid = true →
    exec .getDest s = .next { s with rsp := s.rsp ++ [⟨.ok, s.dest.setWidth 32, 0, []⟩] } ∧
    exec .getSrc s = .next { s with rsp := s.rsp ++ [⟨.ok, s.src.setWidth 32, 0, []⟩] } ∧
    exec .getType s = .next { s with rsp := s.rsp ++ [⟨.ok, s.typ.setWidth 32, 0, []⟩] } ∧
    exec .getLen s = .next { s with rsp := s.rsp ++ [⟨.ok, s.plen.setWidth 32, 0, []⟩] }

/-- Outside the window each accessor answers NoPacket, any value, aux 0, and changes nothing (R87, with R67; R110 leaves the
aux at any value, and that R87 stands is the model's reading, log 11). -/
def Obligations.AccessorsAnswerNoPacketOutsideWindow : Prop :=
  ∀ (s : State) (i : Instr), s.pktValid = false →
    (i = .getDest ∨ i = .getSrc ∨ i = .getType ∨ i = .getLen ∨ ∃ n, i = .getPay n) →
    ∃ v k, exec i s = .next { s with rsp := s.rsp ++ [⟨.noPacket, v, 0, []⟩], freeCount := k }

/-- GETPAY inside the window (R92): the byte below PLEN, OutOfRange at and above it. -/
def Obligations.GetPayReturnsPayloadByte : Prop :=
  ∀ (s : State) (n : Half), s.pktValid = true →
    (n.toNat < s.plen.toNat → exec (.getPay n) s = .next { s with
      rsp := s.rsp ++ [⟨.ok, (s.payload.read n.toNat).setWidth 32, 0, []⟩] }) ∧
    (s.plen.toNat ≤ n.toNat → ∃ v k, exec (.getPay n) s = .next { s with
      rsp := s.rsp ++ [⟨.outOfRange, v, 0, []⟩], freeCount := k })

/-- GETRESYNC (R93). -/
def Obligations.GetResyncReturnsCounter : Prop :=
  decode 0x2600000000 = .ok .getResync ∧ ∀ s : State,
    exec .getResync s = .next { s with rsp := s.rsp ++ [⟨.ok, s.resyncCnt, 0, []⟩] }

/-- GETSTAT (R94): PSTATE in bit 0, PKT_VALID in bit 1, every higher bit 0; in states a run reaches the value is
never 3. -/
def Obligations.GetStatReturnsStateAndWindow : Prop :=
  ∀ s : State, ∃ v : Word,
    exec .getStat s = .next { s with rsp := s.rsp ++ [⟨.ok, v, 0, []⟩] } ∧
    v.toNat < 4 ∧ (v.getLsbD 0 = true ↔ s.pstate = .headerValid) ∧ (v.getLsbD 1 = true ↔ s.pktValid = true) ∧
    (Inv s → v ≠ 3)

/-- CLEAR (R95): as a command, and without a response by a pulse on the `clear` input. -/
def Obligations.ClearDiscardsPartialFrame : Prop :=
  decode 0x2800000000 = .ok .clear ∧ ∀ s : State,
    exec .clear s = .next { s with
      q := [], pstate := .searchingHeader, pktValid := false, rsp := s.rsp ++ [⟨.ok, 0, 0, []⟩] } ∧
    ∀ rest, s.sending = none → s.inputs = .clear :: rest → step s = .next { s with
      inputs := rest, q := [], pstate := .searchingHeader, pktValid := false }

/-! ## Field parsers -/

/-- PARSES8 (R99, R101): NoPacket before all else; OutOfRange past the payload; else the byte as a signed number. The
cursor advances by 1 as a 32-bit number whenever the window is open. -/
def Obligations.ParseS8ReturnsSignedByte : Prop :=
  ∀ n : Half, decode (packWord 0x30 0 0 n) = .ok (.parseS8 n) ∧ ∀ s : State,
    (s.pktValid = false → ∃ v a k, exec (.parseS8 n) s = .next { s with
      rsp := s.rsp ++ [⟨.noPacket, v, a, []⟩], freeCount := k }) ∧
    (s.pktValid = true → s.plen.toNat < n.toNat + 1 → ∃ (v a : Word) (k : Nat), a.toNat = n.toNat + 1 ∧
      exec (.parseS8 n) s = .next { s with rsp := s.rsp ++ [⟨.outOfRange, v, a, []⟩], freeCount := k }) ∧
    (s.pktValid = true → n.toNat + 1 ≤ s.plen.toNat → ∃ v a : Word, a.toNat = n.toNat + 1 ∧
      v.toInt = (s.payload.read n.toNat).toInt ∧
      exec (.parseS8 n) s = .next { s with rsp := s.rsp ++ [⟨.ok, v, a, []⟩] })

/-- PARSEDUP (R99, R102, R43): the primary big-endian signed value whether or not the duplicate differs, DuplexMismatch
exactly if it does; the cursor advances by 4 whenever the window is open. -/
def Obligations.ParseDupReturnsPrimaryAndComparesCopies : Prop :=
  ∀ n : Half, decode (packWord 0x31 0 0 n) = .ok (.parseDup n) ∧ ∀ s : State,
    (s.pktValid = false → ∃ v a k, exec (.parseDup n) s = .next { s with
      rsp := s.rsp ++ [⟨.noPacket, v, a, []⟩], freeCount := k }) ∧
    (s.pktValid = true → s.plen.toNat < n.toNat + 4 → ∃ (v a : Word) (k : Nat), a.toNat = n.toNat + 4 ∧
      exec (.parseDup n) s = .next { s with rsp := s.rsp ++ [⟨.outOfRange, v, a, []⟩], freeCount := k }) ∧
    (s.pktValid = true → n.toNat + 4 ≤ s.plen.toNat →
      let b := fun j => s.payload.read (n.toNat + j)
      ∃ v a : Word, a.toNat = n.toNat + 4 ∧ v.toInt = 256 * (b 0).toInt + (b 1).toNat ∧
        exec (.parseDup n) s = .next { s with rsp := s.rsp ++
          [⟨if b 0 = b 2 ∧ b 1 = b 3 then .ok else .duplexMismatch, v, a, []⟩] })

/-- SEXT (R100, R103): the low w bits of N as two's complement for w in 1..16, BadOperand for any other width; not
gated by PKT_VALID. -/
def Obligations.SextReinterpretsLowBits : Prop :=
  ∀ (w : Byte) (n : Half), decode (packWord 0x32 w 0 n) = .ok (.sext w n) ∧ ∀ s : State,
    (1 ≤ w.toNat → w.toNat ≤ 16 →
      let u : Int := n.toNat % 2 ^ w.toNat
      ∃ v : Word, v.toInt = (if 2 ^ (w.toNat - 1) ≤ u then u - 2 ^ w.toNat else u) ∧
        exec (.sext w n) s = .next { s with rsp := s.rsp ++ [⟨.ok, v, 0, []⟩] }) ∧
    ((w.toNat < 1 ∨ 16 < w.toNat) → ∃ v a k, exec (.sext w n) s = .next { s with
      rsp := s.rsp ++ [⟨.badOperand, v, a, []⟩], freeCount := k })

/-! ## Outbound -/

/-- BUILDHDR (R104): the 7 header bytes to Scratch[0..6] and nothing else of Scratch; value 7 and the bytes echoed. -/
def Obligations.BuildHdrWritesAndEchoesHeader : Prop :=
  ∀ (d ty : Byte) (n : Half), decode (packWord 0x40 d ty n) = .ok (.buildHdr d ty n) ∧
    ∀ s : State, s.cfg.valid = true → s.scratch.wf = true →
    let hdr : List Byte := [0xAA, 0x55, d, s.cfg.myId, ty, BitVec.ofNat 8 (n.toNat / 256), BitVec.ofNat 8 (n.toNat % 256)]
    ∃ m : Memory, exec (.buildHdr d ty n) s = .next { s with
        scratch := m, rsp := s.rsp ++ [⟨.ok, 7, 0, hdr⟩] } ∧
      (∀ j (h : j < hdr.length), m.read j = hdr[j]) ∧ ∀ j, hdr.length ≤ j → m.read j = s.scratch.read j

/-- SENDTEXT with its text present and a transport that takes every byte (R105, R106 a): N text bytes taken, the frame
of the kept text and the terminator in Scratch and on the TX channel, answer OK with its length. The list of answers is
the model's form of the transport's choice, log 8. -/
def Obligations.SendTextSendsWholeFrame : Prop :=
  ∀ (s : State) (d ty : Byte) (n : Half) (as : List SinkAnswer), s.cfg.valid = true → s.scratch.wf = true →
    n.toNat ≤ s.text.length →
    let f := wireFrame d s.cfg.myId ty (textPayload s n.toNat)
    s.sink = List.replicate f.length .take ++ as →
    ∃ m : Memory, exec (.sendText d ty n) s = .next { s with
        text := s.text.drop n.toNat, sink := as, txOut := s.txOut ++ f, scratch := m, sending := none,
        rsp := s.rsp ++ [⟨.ok, BitVec.ofNat 32 f.length, BitVec.ofNat 32 f.length, []⟩] } ∧
      f.length = min n.toNat (s.cfg.scratchCap - 9) + 9 ∧
      (∀ j (h : j < f.length), m.read j = f[j]) ∧ ∀ j, f.length ≤ j → m.read j = s.scratch.read j

/-- SENDTEXT with a transport that takes k bytes of the frame and then asserts `tx_broken` (R105, R106 b): those k bytes
on the TX channel, TransportBroken with the frame's length and k. The list of answers is the model's form of the
transport's choice, log 8. -/
def Obligations.SendTextReportsBrokenTransport : Prop :=
  ∀ (s : State) (d ty : Byte) (n : Half) (k : Nat) (as : List SinkAnswer), s.cfg.valid = true →
    s.scratch.wf = true → n.toNat ≤ s.text.length →
    let f := wireFrame d s.cfg.myId ty (textPayload s n.toNat)
    k < f.length → s.sink = List.replicate k .take ++ .broken :: as →
    ∃ m : Memory, exec (.sendText d ty n) s = .next { s with
        text := s.text.drop n.toNat, sink := as, txOut := s.txOut ++ f.take k, scratch := m, sending := none,
        rsp := s.rsp ++ [⟨.transportBroken, BitVec.ofNat 32 f.length, BitVec.ofNat 32 k, []⟩] } ∧
      (∀ j (h : j < f.length), m.read j = f[j]) ∧ ∀ j, f.length ≤ j → m.read j = s.scratch.read j

/-- SENDTEXT waits, with no response, for text bytes the host has not supplied (R33, U10) and for a transport that
neither takes nor refuses a byte (R106 c, U11). That bytes are taken as they come is the model's, log 7 and log 8. -/
def Obligations.SendTextWaitsForTextAndTransport : Prop :=
  ∀ (s : State) (d ty : Byte) (n : Half), s.cfg.valid = true → s.scratch.wf = true →
    (s.text.length < n.toNat → exec (.sendText d ty n) s = .next { s with
      text := [], sending := some (.awaitText d ty n s.text) }) ∧
    (n.toNat ≤ s.text.length →
      let f := wireFrame d s.cfg.myId ty (textPayload s n.toNat)
      ∀ k, k < f.length → s.sink = List.replicate k .take →
      ∃ m : Memory, exec (.sendText d ty n) s = .next { s with
          text := s.text.drop n.toNat, sink := [], txOut := s.txOut ++ f.take k, scratch := m,
          sending := some (.transmit f k) } ∧
        (∀ j (h : j < f.length), m.read j = f[j]) ∧ ∀ j, f.length ≤ j → m.read j = s.scratch.read j)

/-- Every step of a state with a SENDTEXT in progress goes on with it (R33, R106, R135), and one that had to wait ends as if
the text bytes and the transport's answers had all been there when it began: waiting changes nothing but the time (R136).
The form of waiting and resuming is the model's: text bytes are taken as they come, log 7, and the transport's answers are
a list whose end is the stall, log 8; a power-on reset, left out, is taken instead, log 10. -/
def Obligations.WaitingSendTextResumesUnchanged : Prop :=
  (∀ (v : State) (p : Sending), v.sending = some p → (∀ rest, v.inputs ≠ .powerOn :: rest) →
    step v = resumeSend p v) ∧
  ∀ (s u : State) (d ty : Byte) (n : Half) (p : Sending) (moreText : List Byte) (moreAnswers : List SinkAnswer),
    exec (.sendText d ty n) s = .next u → u.sending = some p →
    resumeSend p (offerAnswers moreAnswers (offerText moreText u)) =
      exec (.sendText d ty n) (offerAnswers moreAnswers (offerText moreText s))

/-- A SENDTEXT whose transport never answers again never ends: every later step, whatever is at the other ports, leaves
the PFE as it is (R106 c, R135). The stall is the end of the list of answers, log 8; a power-on reset is left out, log 10. -/
def Obligations.StalledSendStallsForEver : Prop :=
  ∀ (s : State) (f : List Byte) (k n : Nat), s.sending = some (.transmit f k) → k < f.length → s.sink = [] →
    (∀ rest, s.inputs ≠ .powerOn :: rest) → Sys2Proof.core.run n s = .next s

/-- Every frame SENDTEXT transmits sums to 0 mod 256 and is accepted by a PFE whose MY_ID is its destination (R107):
that PFE's packet has the sender's id, the type and the kept text with its terminator. A transport that takes all is a
list of answers, the model's form, log 8. -/
def Obligations.SentFrameIsAcceptedByItsDestination : Prop :=
  ∀ (s r : State) (ty : Byte) (n : Half) (rest : List Byte), s.cfg.valid = true → n.toNat ≤ s.text.length →
    r.pstate = .searchingHeader → r.payload.wf = true →
    let p := textPayload s n.toNat
    let f := wireFrame r.cfg.myId s.cfg.myId ty p
    s.sink = List.replicate f.length .take → r.q = f ++ rest →
    ∃ t u, exec (.sendText r.cfg.myId ty n) s = .next t ∧ t.txOut = s.txOut ++ f ∧ byteTotal f % 256 = 0 ∧
      exec .poll r = .next u ∧ u.pktValid = true ∧ u.q = rest ∧ u.dest = r.cfg.myId ∧ u.src = s.cfg.myId ∧
      u.typ = ty ∧ u.plen.toNat = p.length ∧ ∀ j (h : j < p.length), u.payload.read j = p[j]

/-- The outbound and the inbound path share no state but MY_ID: an outbound command changes no receive-side state, and
every other command no outbound state (R108). -/
def Obligations.InboundAndOutboundAreSeparate : Prop :=
  ∀ (i : Instr) (s t : State), exec i s = .next t →
    ((∃ d ty n, i = .buildHdr d ty n ∨ i = .sendText d ty n) → SameReceive s t) ∧
    ((∀ d ty n, i ≠ .buildHdr d ty n ∧ i ≠ .sendText d ty n) → SameOutbound s t)

/-! ## The whole machine -/

/-- A step delivers at most one response, after those delivered before; an accepted command exactly one, unless it is a
SENDTEXT that waits (R34); a status reserved for the dispatcher is never produced (R66, I9). That a power-on reset ends a
SENDTEXT in progress without a response is the model's reading, log 10. -/
def Obligations.OneResponsePerCommand : Prop :=
  ∀ s t : State, step s = .next t →
    (t.rsp = s.rsp ∨ ∃ r : Response, t.rsp = s.rsp ++ [r] ∧
      r.status ≠ .unknownPacketType ∧ r.status ≠ .logMessage) ∧
    (∀ w rest, s.inputs = .command w :: rest → s.sending = none →
      t.rsp ≠ s.rsp ∨ t.sending ≠ none ∧ ∃ d ty n, decode w = .ok (.sendText d ty n)) ∧
    (s.sending ≠ none → t.sending = none → t.rsp ≠ s.rsp ∨ ∃ rest, s.inputs = .powerOn :: rest)

/-- The parameters and MY_ID never change (R6, R28, R124). -/
def Obligations.ParametersNeverChange : Prop :=
  ∀ s t : State, step s = .next t → t.cfg = s.cfg

/-- The invariant holds of every power-on state, so of State.reset and of a reset with any parameters in range (R38). -/
def Obligations.InvariantHoldsAfterPowerOn : Prop :=
  (∀ s : State, PowerOnState s → Inv s) ∧ PowerOnState State.reset ∧
    ∀ c : Config, c.valid = true → PowerOnState (State.resetWith c)

/-- Every step keeps the invariant, whose clauses name their rules in `Inv` (Safety.lean). That a SENDTEXT waits with the
text bytes or the frame it has is the model's form, log 7 and log 8. -/
def Obligations.StepKeepsInvariant : Prop :=
  ∀ s t : State, Inv s → step s = .next t → Inv t

/-- The PFE has no trap (R109): from a state with the invariant a step always goes on. -/
def Obligations.StepAlwaysGoesOn : Prop :=
  ∀ s : State, Inv s → ∃ t, step s = .next t

/-- So no run from a power-on state (R38), whatever its inputs, ever stops (R109), and it ends in a state with the
invariant, whose clauses are those of StepKeepsInvariant. -/
def Obligations.RunsFromPowerOnNeverStop : Prop :=
  ∀ (s : State) (k : Nat), PowerOnState s → ∃ t, Sys2Proof.core.run k s = .next t ∧ Inv t

/-- What R38 calls any value is never observed: two power-on states with the same parameters and ports, whatever their
header registers and buffers hold, deliver the same responses and transmit the same bytes at every step. -/
def Obligations.PowerOnValuesAreNeverObserved : Prop :=
  ∀ (s t : State) (k : Nat), PowerOnState s → PowerOnState t → s.cfg = t.cfg → s.inputs = t.inputs →
    s.text = t.text → s.sink = t.sink → s.rsp = t.rsp → s.txOut = t.txOut → s.freeCount = t.freeCount →
    ∃ s' t', Sys2Proof.core.run k s = .next s' ∧ Sys2Proof.core.run k t = .next t' ∧
      s'.rsp = t'.rsp ∧ s'.txOut = t'.txOut ∧ s'.q = t'.q ∧ s'.pktValid = t'.pktValid

/-- One step of the same: states that agree but for what R38 and U2 leave open step to states that agree. -/
def Obligations.StepKeepsAgreement : Prop :=
  ∀ s t : State, s.payload.wf = true → t.payload.wf = true → Agree s t → AgreeOutcome (step s) (step t)
end

