-- ==== Sys2Proof/Laws/Decode.lean ====
section
/-! SUPPORT. The fields of a packed word. -/

namespace Sys2Proof

theorem opField_packWord (op a b : Byte) (n : Half) : opField (packWord op a b n) = op := by
  apply BitVec.eq_of_getLsbD_eq; intro i hi
  simp only [opField, packWord, BitVec.getLsbD_extractLsb', BitVec.getLsbD_append]
  have h1 : ¬ 32 + i < 16 := by omega
  have h2 : ¬ 32 + i - 16 < 8 := by omega
  have h3 : ¬ 32 + i - 16 - 8 < 8 := by omega
  have h4 : 32 + i - 16 - 8 - 8 = i := by omega
  simp [h1, h2, h3, h4, hi]

theorem aField_packWord (op a b : Byte) (n : Half) : aField (packWord op a b n) = a := by
  apply BitVec.eq_of_getLsbD_eq; intro i hi
  simp only [aField, packWord, BitVec.getLsbD_extractLsb', BitVec.getLsbD_append]
  have h1 : ¬ 24 + i < 16 := by omega
  have h2 : ¬ 24 + i - 16 < 8 := by omega
  have h3 : 24 + i - 16 - 8 < 8 := by omega
  have h4 : 24 + i - 16 - 8 = i := by omega
  simp [h1, h2, h4, hi]

theorem bField_packWord (op a b : Byte) (n : Half) : bField (packWord op a b n) = b := by
  apply BitVec.eq_of_getLsbD_eq; intro i hi
  simp only [bField, packWord, BitVec.getLsbD_extractLsb', BitVec.getLsbD_append]
  have h1 : ¬ 16 + i < 16 := by omega
  have h2 : 16 + i - 16 = i := by omega
  simp [h1, h2, hi]

theorem nField_packWord (op a b : Byte) (n : Half) : nField (packWord op a b n) = n := by
  apply BitVec.eq_of_getLsbD_eq; intro i hi
  simp only [nField, packWord, BitVec.getLsbD_extractLsb', BitVec.getLsbD_append]
  simp [hi]

/-- A word is its four fields. -/
theorem packWord_fields (w : CmdWord) : packWord (opField w) (aField w) (bField w) (nField w) = w := by
  apply BitVec.eq_of_getLsbD_eq; intro i hi
  simp only [opField, aField, bField, nField, packWord, BitVec.getLsbD_extractLsb', BitVec.getLsbD_append]
  by_cases h1 : i < 16
  · simp [h1]
  · by_cases h2 : i - 16 < 8
    · have : 16 + (i - 16) = i := by omega
      simp [h1, h2, this]
    · by_cases h3 : i - 16 - 8 < 8
      · have : 24 + (i - 16 - 8) = i := by omega
        simp [h1, h2, h3, this]
      · have h4 : i - 16 - 8 - 8 < 8 := by omega
        have : 32 + (i - 16 - 8 - 8) = i := by omega
        simp [h1, h2, h3, h4, this]

end Sys2Proof
end

