-- ==== Sys2Proof/Laws/Memory.lean ====
section
/-! SUPPORT. Buffers: a read after a write, and every write keeps the canonical form (Memory.wf) and the buffer's size. -/

namespace Sys2Proof.Machine

@[simp] theorem Memory.read_nil (a : Nat) : Memory.read [] a = 0 := rfl

theorem Memory.read_listed (c : Host.Cell) (m : Memory) (a : Nat) :
    Memory.read (c :: m) a = if c.1 = a then c.2 else Memory.read m a := rfl

@[simp] theorem Memory.writeFrom_nil (m : Memory) (a : Nat) : Memory.writeFrom m a [] = m := rfl

theorem Memory.writeFrom_head (m : Memory) (a : Nat) (b : Byte) (bs : List Byte) :
    Memory.writeFrom m a (b :: bs) = Memory.writeFrom (Memory.write m a b) (a + 1) bs := rfl

theorem Memory.wfFrom_listed (lo : Nat) (c : Host.Cell) (m : Memory) :
    Memory.wfFrom lo (c :: m) = true ↔ lo ≤ c.1 ∧ c.2 ≠ 0 ∧ Memory.wfFrom (c.1 + 1) m = true := by
  simp [Memory.wfFrom, and_assoc]

theorem Memory.wfFrom_le {lo lo' : Nat} (h : lo ≤ lo') {m : Memory} (hm : Memory.wfFrom lo' m = true) :
    Memory.wfFrom lo m = true := by
  cases m with
  | nil => rfl
  | cons c m =>
    rw [Memory.wfFrom_listed] at hm ⊢
    exact ⟨h.trans hm.1, hm.2⟩

/-- Below its first possible index a canonical buffer reads as 0. -/
theorem Memory.read_below {lo : Nat} {m : Memory} (hm : Memory.wfFrom lo m = true) {a : Nat} (h : a < lo) :
    Memory.read m a = 0 := by
  induction m generalizing lo with
  | nil => rfl
  | cons c m ih =>
    rw [Memory.wfFrom_listed] at hm
    rw [Memory.read_listed, if_neg (by omega), ih hm.2.2 (by omega)]

theorem Memory.wfFrom_cons {lo a : Nat} {b : Byte} {m : Memory} (h : lo ≤ a)
    (hm : Memory.wfFrom (a + 1) m = true) : Memory.wfFrom lo (Memory.cons a b m) = true := by
  unfold Memory.cons
  split
  · exact Memory.wfFrom_le (by omega) hm
  · exact (Memory.wfFrom_listed ..).2 ⟨h, ‹_›, hm⟩

theorem Memory.read_cons {a : Nat} {v : Byte} {m : Memory} (hm : Memory.wfFrom (a + 1) m = true) (x : Nat) :
    Memory.read (Memory.cons a v m) x = if x = a then v else Memory.read m x := by
  unfold Memory.cons
  split
  · subst v
    split
    · subst x; exact Memory.read_below hm (by omega)
    · rfl
  · rw [Memory.read_listed]; simp only [eq_comm]

theorem Memory.wfFrom_write {lo a : Nat} {m : Memory} (hm : Memory.wfFrom lo m = true) (h : lo ≤ a) (v : Byte) :
    Memory.wfFrom lo (Memory.write m a v) = true := by
  induction m generalizing lo with
  | nil => exact Memory.wfFrom_cons h rfl
  | cons c m ih =>
    rw [Memory.wfFrom_listed] at hm
    unfold Memory.write
    split
    · exact Memory.wfFrom_cons h ((Memory.wfFrom_listed ..).2 ⟨by omega, hm.2⟩)
    · split
      · subst a; exact Memory.wfFrom_cons h hm.2.2
      · exact (Memory.wfFrom_listed ..).2 ⟨hm.1, hm.2.1, ih hm.2.2 (by omega)⟩

/-- A write keeps the canonical form. -/
theorem Memory.wf_write {m : Memory} (hm : m.wf = true) (a : Nat) (v : Byte) : (Memory.write m a v).wf = true :=
  Memory.wfFrom_write hm (Nat.zero_le a) v

theorem Memory.read_write_from {lo : Nat} {m : Memory} (hm : Memory.wfFrom lo m = true) (a : Nat) (v : Byte) (x : Nat) :
    Memory.read (Memory.write m a v) x = if x = a then v else Memory.read m x := by
  induction m generalizing lo with
  | nil => exact Memory.read_cons rfl x
  | cons c m ih =>
    have hm' := hm
    rw [Memory.wfFrom_listed] at hm
    unfold Memory.write
    split
    · exact Memory.read_cons ((Memory.wfFrom_listed ..).2 ⟨by omega, hm.2⟩) x
    · split
      · subst a
        rw [Memory.read_cons hm.2.2, Memory.read_listed]
        simp only [eq_comm]; split <;> simp_all
      · rw [Memory.read_listed, Memory.read_listed, ih hm.2.2]
        split
        · rw [if_neg (by omega)]
        · rfl

/-- A read after a write: the value written at that index, what was there at every other. -/
theorem Memory.read_write {m : Memory} (hm : m.wf = true) (a : Nat) (v : Byte) (x : Nat) :
    Memory.read (Memory.write m a v) x = if x = a then v else Memory.read m x :=
  Memory.read_write_from hm a v x

/-- Writing bytes keeps the canonical form. -/
theorem Memory.wf_writeFrom {m : Memory} (hm : m.wf = true) (a : Nat) (bs : List Byte) :
    (Memory.writeFrom m a bs).wf = true := by
  induction bs generalizing m a with
  | nil => exact hm
  | cons b bs ih => exact ih (Memory.wf_write hm a b) (a + 1)

/-- A read after writing bytes from `a`. -/
theorem Memory.read_writeFrom {m : Memory} (hm : m.wf = true) (a : Nat) (bs : List Byte) (x : Nat) :
    Memory.read (Memory.writeFrom m a bs) x =
      if h : a ≤ x ∧ x < a + bs.length then bs[x - a] else Memory.read m x := by
  induction bs generalizing m a with
  | nil => simp
  | cons b bs ih =>
    rw [Memory.writeFrom_head, ih (Memory.wf_write hm a b), Memory.read_write hm]
    by_cases h1 : x = a
    · subst x; simp
    · by_cases h2 : a + 1 ≤ x ∧ x < a + 1 + bs.length
      · have h3 : a ≤ x ∧ x < a + (b :: bs).length := by simp; omega
        have h4 : x - a = (x - (a + 1)) + 1 := by omega
        rw [dif_pos h2, dif_pos h3]
        simp only [h4, List.getElem_cons_succ]
      · have h3 : ¬ (a ≤ x ∧ x < a + (b :: bs).length) := by simp; omega
        simp only [h1, h2, h3, dite_false, if_false]

/-- Writing bytes from index 0. -/
theorem Memory.read_writeFrom_zero {m : Memory} (hm : m.wf = true) (bs : List Byte) (x : Nat) :
    Memory.read (Memory.writeFrom m 0 bs) x = if h : x < bs.length then bs[x] else Memory.read m x := by
  simp [Memory.read_writeFrom hm]

theorem Memory.within_cons {size a : Nat} {v : Byte} {m : Memory} (h : a < size) (hm : m.within size = true) :
    (Memory.cons a v m).within size = true := by
  unfold Memory.cons
  split
  · exact hm
  · simp only [Memory.within, List.all_cons, Bool.and_eq_true, decide_eq_true_eq]; exact ⟨h, hm⟩

theorem Memory.within_write {size a : Nat} {m : Memory} (h : a < size) (hm : m.within size = true) (v : Byte) :
    (Memory.write m a v).within size = true := by
  induction m with
  | nil => exact Memory.within_cons h rfl
  | cons c m ih =>
    have hc : c.1 < size ∧ Memory.within size m = true := by
      simpa only [Memory.within, List.all_cons, Bool.and_eq_true, decide_eq_true_eq] using hm
    unfold Memory.write
    split
    · exact Memory.within_cons h hm
    · split
      · exact Memory.within_cons h hc.2
      · simp only [Memory.within, List.all_cons, Bool.and_eq_true, decide_eq_true_eq]; exact ⟨hc.1, ih hc.2⟩

/-- Writing bytes inside a buffer's size leaves it inside. -/
theorem Memory.within_writeFrom {size a : Nat} {m : Memory} {bs : List Byte} (h : a + bs.length ≤ size)
    (hm : m.within size = true) : (Memory.writeFrom m a bs).within size = true := by
  induction bs generalizing m a with
  | nil => exact hm
  | cons b bs ih =>
    simp only [List.length_cons] at h
    exact ih (by omega) (Memory.within_write (by omega) hm b)

/-- Reset's buffers have the canonical form. -/
theorem State.resetWith_memory_wf (c : Config) :
    (State.resetWith c).payload.wf = true ∧ (State.resetWith c).scratch.wf = true := ⟨rfl, rfl⟩

end Sys2Proof.Machine
end

