-- ==== Sys2Proof/Laws/State.lean ====
section
/-! SUPPORT. For each shared update of State, what it does to each field. -/

namespace Sys2Proof.Machine

@[simp] theorem respond_cfg (st : Status) (v a : Word) (bs : List Byte) (s : State) :
    (respond st v a bs s).cfg = s.cfg := rfl
@[simp] theorem respond_q (st : Status) (v a : Word) (bs : List Byte) (s : State) :
    (respond st v a bs s).q = s.q := rfl
@[simp] theorem respond_pstate (st : Status) (v a : Word) (bs : List Byte) (s : State) :
    (respond st v a bs s).pstate = s.pstate := rfl
@[simp] theorem respond_dest (st : Status) (v a : Word) (bs : List Byte) (s : State) :
    (respond st v a bs s).dest = s.dest := rfl
@[simp] theorem respond_src (st : Status) (v a : Word) (bs : List Byte) (s : State) :
    (respond st v a bs s).src = s.src := rfl
@[simp] theorem respond_typ (st : Status) (v a : Word) (bs : List Byte) (s : State) :
    (respond st v a bs s).typ = s.typ := rfl
@[simp] theorem respond_plen (st : Status) (v a : Word) (bs : List Byte) (s : State) :
    (respond st v a bs s).plen = s.plen := rfl
@[simp] theorem respond_trem (st : Status) (v a : Word) (bs : List Byte) (s : State) :
    (respond st v a bs s).trem = s.trem := rfl
@[simp] theorem respond_csum (st : Status) (v a : Word) (bs : List Byte) (s : State) :
    (respond st v a bs s).csum = s.csum := rfl
@[simp] theorem respond_chkByte (st : Status) (v a : Word) (bs : List Byte) (s : State) :
    (respond st v a bs s).chkByte = s.chkByte := rfl
@[simp] theorem respond_payload (st : Status) (v a : Word) (bs : List Byte) (s : State) :
    (respond st v a bs s).payload = s.payload := rfl
@[simp] theorem respond_pktValid (st : Status) (v a : Word) (bs : List Byte) (s : State) :
    (respond st v a bs s).pktValid = s.pktValid := rfl
@[simp] theorem respond_resyncCnt (st : Status) (v a : Word) (bs : List Byte) (s : State) :
    (respond st v a bs s).resyncCnt = s.resyncCnt := rfl
@[simp] theorem respond_scratch (st : Status) (v a : Word) (bs : List Byte) (s : State) :
    (respond st v a bs s).scratch = s.scratch := rfl
@[simp] theorem respond_sending (st : Status) (v a : Word) (bs : List Byte) (s : State) :
    (respond st v a bs s).sending = s.sending := rfl
@[simp] theorem respond_inputs (st : Status) (v a : Word) (bs : List Byte) (s : State) :
    (respond st v a bs s).inputs = s.inputs := rfl
@[simp] theorem respond_text (st : Status) (v a : Word) (bs : List Byte) (s : State) :
    (respond st v a bs s).text = s.text := rfl
@[simp] theorem respond_sink (st : Status) (v a : Word) (bs : List Byte) (s : State) :
    (respond st v a bs s).sink = s.sink := rfl
@[simp] theorem respond_rsp (st : Status) (v a : Word) (bs : List Byte) (s : State) :
    (respond st v a bs s).rsp = s.rsp ++ [⟨st, v, a, bs⟩] := rfl
@[simp] theorem respond_txOut (st : Status) (v a : Word) (bs : List Byte) (s : State) :
    (respond st v a bs s).txOut = s.txOut := rfl
@[simp] theorem respond_freeCount (st : Status) (v a : Word) (bs : List Byte) (s : State) :
    (respond st v a bs s).freeCount = s.freeCount := rfl

@[simp] theorem respondAnyValue_cfg (st : Status) (a : Word) (s : State) :
    (respondAnyValue st a s).cfg = s.cfg := rfl
@[simp] theorem respondAnyValue_q (st : Status) (a : Word) (s : State) :
    (respondAnyValue st a s).q = s.q := rfl
@[simp] theorem respondAnyValue_pstate (st : Status) (a : Word) (s : State) :
    (respondAnyValue st a s).pstate = s.pstate := rfl
@[simp] theorem respondAnyValue_dest (st : Status) (a : Word) (s : State) :
    (respondAnyValue st a s).dest = s.dest := rfl
@[simp] theorem respondAnyValue_src (st : Status) (a : Word) (s : State) :
    (respondAnyValue st a s).src = s.src := rfl
@[simp] theorem respondAnyValue_typ (st : Status) (a : Word) (s : State) :
    (respondAnyValue st a s).typ = s.typ := rfl
@[simp] theorem respondAnyValue_plen (st : Status) (a : Word) (s : State) :
    (respondAnyValue st a s).plen = s.plen := rfl
@[simp] theorem respondAnyValue_trem (st : Status) (a : Word) (s : State) :
    (respondAnyValue st a s).trem = s.trem := rfl
@[simp] theorem respondAnyValue_csum (st : Status) (a : Word) (s : State) :
    (respondAnyValue st a s).csum = s.csum := rfl
@[simp] theorem respondAnyValue_chkByte (st : Status) (a : Word) (s : State) :
    (respondAnyValue st a s).chkByte = s.chkByte := rfl
@[simp] theorem respondAnyValue_payload (st : Status) (a : Word) (s : State) :
    (respondAnyValue st a s).payload = s.payload := rfl
@[simp] theorem respondAnyValue_pktValid (st : Status) (a : Word) (s : State) :
    (respondAnyValue st a s).pktValid = s.pktValid := rfl
@[simp] theorem respondAnyValue_resyncCnt (st : Status) (a : Word) (s : State) :
    (respondAnyValue st a s).resyncCnt = s.resyncCnt := rfl
@[simp] theorem respondAnyValue_scratch (st : Status) (a : Word) (s : State) :
    (respondAnyValue st a s).scratch = s.scratch := rfl
@[simp] theorem respondAnyValue_sending (st : Status) (a : Word) (s : State) :
    (respondAnyValue st a s).sending = s.sending := rfl
@[simp] theorem respondAnyValue_inputs (st : Status) (a : Word) (s : State) :
    (respondAnyValue st a s).inputs = s.inputs := rfl
@[simp] theorem respondAnyValue_text (st : Status) (a : Word) (s : State) :
    (respondAnyValue st a s).text = s.text := rfl
@[simp] theorem respondAnyValue_sink (st : Status) (a : Word) (s : State) :
    (respondAnyValue st a s).sink = s.sink := rfl
@[simp] theorem respondAnyValue_rsp (st : Status) (a : Word) (s : State) :
    (respondAnyValue st a s).rsp = s.rsp ++ [⟨st, Config.freeWord s.freeCount, a, []⟩] := rfl
@[simp] theorem respondAnyValue_txOut (st : Status) (a : Word) (s : State) :
    (respondAnyValue st a s).txOut = s.txOut := rfl
@[simp] theorem respondAnyValue_freeCount (st : Status) (a : Word) (s : State) :
    (respondAnyValue st a s).freeCount = s.freeCount + 1 := rfl

@[simp] theorem raise_cfg (st : Status) (s : State) :
    (raise st s).cfg = s.cfg := rfl
@[simp] theorem raise_q (st : Status) (s : State) :
    (raise st s).q = s.q := rfl
@[simp] theorem raise_pstate (st : Status) (s : State) :
    (raise st s).pstate = s.pstate := rfl
@[simp] theorem raise_dest (st : Status) (s : State) :
    (raise st s).dest = s.dest := rfl
@[simp] theorem raise_src (st : Status) (s : State) :
    (raise st s).src = s.src := rfl
@[simp] theorem raise_typ (st : Status) (s : State) :
    (raise st s).typ = s.typ := rfl
@[simp] theorem raise_plen (st : Status) (s : State) :
    (raise st s).plen = s.plen := rfl
@[simp] theorem raise_trem (st : Status) (s : State) :
    (raise st s).trem = s.trem := rfl
@[simp] theorem raise_csum (st : Status) (s : State) :
    (raise st s).csum = s.csum := rfl
@[simp] theorem raise_chkByte (st : Status) (s : State) :
    (raise st s).chkByte = s.chkByte := rfl
@[simp] theorem raise_payload (st : Status) (s : State) :
    (raise st s).payload = s.payload := rfl
@[simp] theorem raise_pktValid (st : Status) (s : State) :
    (raise st s).pktValid = s.pktValid := rfl
@[simp] theorem raise_resyncCnt (st : Status) (s : State) :
    (raise st s).resyncCnt = s.resyncCnt := rfl
@[simp] theorem raise_scratch (st : Status) (s : State) :
    (raise st s).scratch = s.scratch := rfl
@[simp] theorem raise_sending (st : Status) (s : State) :
    (raise st s).sending = s.sending := rfl
@[simp] theorem raise_inputs (st : Status) (s : State) :
    (raise st s).inputs = s.inputs := rfl
@[simp] theorem raise_text (st : Status) (s : State) :
    (raise st s).text = s.text := rfl
@[simp] theorem raise_sink (st : Status) (s : State) :
    (raise st s).sink = s.sink := rfl
@[simp] theorem raise_rsp (st : Status) (s : State) :
    (raise st s).rsp = s.rsp ++ [⟨st, Config.freeWord s.freeCount, Config.freeWord (s.freeCount + 1), []⟩] := rfl
@[simp] theorem raise_txOut (st : Status) (s : State) :
    (raise st s).txOut = s.txOut := rfl
@[simp] theorem raise_freeCount (st : Status) (s : State) :
    (raise st s).freeCount = s.freeCount + 2 := rfl

@[simp] theorem raiseNoPacket_cfg (s : State) :
    (raiseNoPacket s).cfg = s.cfg := rfl
@[simp] theorem raiseNoPacket_q (s : State) :
    (raiseNoPacket s).q = s.q := rfl
@[simp] theorem raiseNoPacket_pstate (s : State) :
    (raiseNoPacket s).pstate = s.pstate := rfl
@[simp] theorem raiseNoPacket_dest (s : State) :
    (raiseNoPacket s).dest = s.dest := rfl
@[simp] theorem raiseNoPacket_src (s : State) :
    (raiseNoPacket s).src = s.src := rfl
@[simp] theorem raiseNoPacket_typ (s : State) :
    (raiseNoPacket s).typ = s.typ := rfl
@[simp] theorem raiseNoPacket_plen (s : State) :
    (raiseNoPacket s).plen = s.plen := rfl
@[simp] theorem raiseNoPacket_trem (s : State) :
    (raiseNoPacket s).trem = s.trem := rfl
@[simp] theorem raiseNoPacket_csum (s : State) :
    (raiseNoPacket s).csum = s.csum := rfl
@[simp] theorem raiseNoPacket_chkByte (s : State) :
    (raiseNoPacket s).chkByte = s.chkByte := rfl
@[simp] theorem raiseNoPacket_payload (s : State) :
    (raiseNoPacket s).payload = s.payload := rfl
@[simp] theorem raiseNoPacket_pktValid (s : State) :
    (raiseNoPacket s).pktValid = s.pktValid := rfl
@[simp] theorem raiseNoPacket_resyncCnt (s : State) :
    (raiseNoPacket s).resyncCnt = s.resyncCnt := rfl
@[simp] theorem raiseNoPacket_scratch (s : State) :
    (raiseNoPacket s).scratch = s.scratch := rfl
@[simp] theorem raiseNoPacket_sending (s : State) :
    (raiseNoPacket s).sending = s.sending := rfl
@[simp] theorem raiseNoPacket_inputs (s : State) :
    (raiseNoPacket s).inputs = s.inputs := rfl
@[simp] theorem raiseNoPacket_text (s : State) :
    (raiseNoPacket s).text = s.text := rfl
@[simp] theorem raiseNoPacket_sink (s : State) :
    (raiseNoPacket s).sink = s.sink := rfl
@[simp] theorem raiseNoPacket_rsp (s : State) :
    (raiseNoPacket s).rsp = s.rsp ++ [⟨.noPacket, Config.freeWord s.freeCount, 0, []⟩] := rfl
@[simp] theorem raiseNoPacket_txOut (s : State) :
    (raiseNoPacket s).txOut = s.txOut := rfl
@[simp] theorem raiseNoPacket_freeCount (s : State) :
    (raiseNoPacket s).freeCount = s.freeCount + 1 := rfl

@[simp] theorem ringAppend_cfg (b : Byte) (s : State) :
    (ringAppend b s).cfg = s.cfg := rfl
@[simp] theorem ringAppend_q (b : Byte) (s : State) :
    (ringAppend b s).q = (if s.q.length = s.cfg.rbCap then s.q.drop 1 else s.q) ++ [b] := rfl
@[simp] theorem ringAppend_pstate (b : Byte) (s : State) :
    (ringAppend b s).pstate = s.pstate := rfl
@[simp] theorem ringAppend_dest (b : Byte) (s : State) :
    (ringAppend b s).dest = s.dest := rfl
@[simp] theorem ringAppend_src (b : Byte) (s : State) :
    (ringAppend b s).src = s.src := rfl
@[simp] theorem ringAppend_typ (b : Byte) (s : State) :
    (ringAppend b s).typ = s.typ := rfl
@[simp] theorem ringAppend_plen (b : Byte) (s : State) :
    (ringAppend b s).plen = s.plen := rfl
@[simp] theorem ringAppend_trem (b : Byte) (s : State) :
    (ringAppend b s).trem = s.trem := rfl
@[simp] theorem ringAppend_csum (b : Byte) (s : State) :
    (ringAppend b s).csum = s.csum := rfl
@[simp] theorem ringAppend_chkByte (b : Byte) (s : State) :
    (ringAppend b s).chkByte = s.chkByte := rfl
@[simp] theorem ringAppend_payload (b : Byte) (s : State) :
    (ringAppend b s).payload = s.payload := rfl
@[simp] theorem ringAppend_pktValid (b : Byte) (s : State) :
    (ringAppend b s).pktValid = s.pktValid := rfl
@[simp] theorem ringAppend_resyncCnt (b : Byte) (s : State) :
    (ringAppend b s).resyncCnt = s.resyncCnt := rfl
@[simp] theorem ringAppend_scratch (b : Byte) (s : State) :
    (ringAppend b s).scratch = s.scratch := rfl
@[simp] theorem ringAppend_sending (b : Byte) (s : State) :
    (ringAppend b s).sending = s.sending := rfl
@[simp] theorem ringAppend_inputs (b : Byte) (s : State) :
    (ringAppend b s).inputs = s.inputs := rfl
@[simp] theorem ringAppend_text (b : Byte) (s : State) :
    (ringAppend b s).text = s.text := rfl
@[simp] theorem ringAppend_sink (b : Byte) (s : State) :
    (ringAppend b s).sink = s.sink := rfl
@[simp] theorem ringAppend_rsp (b : Byte) (s : State) :
    (ringAppend b s).rsp = s.rsp := rfl
@[simp] theorem ringAppend_txOut (b : Byte) (s : State) :
    (ringAppend b s).txOut = s.txOut := rfl
@[simp] theorem ringAppend_freeCount (b : Byte) (s : State) :
    (ringAppend b s).freeCount = s.freeCount := rfl

@[simp] theorem ringReset_cfg (s : State) :
    (ringReset s).cfg = s.cfg := rfl
@[simp] theorem ringReset_q (s : State) :
    (ringReset s).q = [] := rfl
@[simp] theorem ringReset_pstate (s : State) :
    (ringReset s).pstate = s.pstate := rfl
@[simp] theorem ringReset_dest (s : State) :
    (ringReset s).dest = s.dest := rfl
@[simp] theorem ringReset_src (s : State) :
    (ringReset s).src = s.src := rfl
@[simp] theorem ringReset_typ (s : State) :
    (ringReset s).typ = s.typ := rfl
@[simp] theorem ringReset_plen (s : State) :
    (ringReset s).plen = s.plen := rfl
@[simp] theorem ringReset_trem (s : State) :
    (ringReset s).trem = s.trem := rfl
@[simp] theorem ringReset_csum (s : State) :
    (ringReset s).csum = s.csum := rfl
@[simp] theorem ringReset_chkByte (s : State) :
    (ringReset s).chkByte = s.chkByte := rfl
@[simp] theorem ringReset_payload (s : State) :
    (ringReset s).payload = s.payload := rfl
@[simp] theorem ringReset_pktValid (s : State) :
    (ringReset s).pktValid = s.pktValid := rfl
@[simp] theorem ringReset_resyncCnt (s : State) :
    (ringReset s).resyncCnt = s.resyncCnt := rfl
@[simp] theorem ringReset_scratch (s : State) :
    (ringReset s).scratch = s.scratch := rfl
@[simp] theorem ringReset_sending (s : State) :
    (ringReset s).sending = s.sending := rfl
@[simp] theorem ringReset_inputs (s : State) :
    (ringReset s).inputs = s.inputs := rfl
@[simp] theorem ringReset_text (s : State) :
    (ringReset s).text = s.text := rfl
@[simp] theorem ringReset_sink (s : State) :
    (ringReset s).sink = s.sink := rfl
@[simp] theorem ringReset_rsp (s : State) :
    (ringReset s).rsp = s.rsp := rfl
@[simp] theorem ringReset_txOut (s : State) :
    (ringReset s).txOut = s.txOut := rfl
@[simp] theorem ringReset_freeCount (s : State) :
    (ringReset s).freeCount = s.freeCount := rfl

@[simp] theorem ringDrop_cfg (k : Nat) (s : State) :
    (ringDrop k s).cfg = s.cfg := rfl
@[simp] theorem ringDrop_q (k : Nat) (s : State) :
    (ringDrop k s).q = s.q.drop k := rfl
@[simp] theorem ringDrop_pstate (k : Nat) (s : State) :
    (ringDrop k s).pstate = s.pstate := rfl
@[simp] theorem ringDrop_dest (k : Nat) (s : State) :
    (ringDrop k s).dest = s.dest := rfl
@[simp] theorem ringDrop_src (k : Nat) (s : State) :
    (ringDrop k s).src = s.src := rfl
@[simp] theorem ringDrop_typ (k : Nat) (s : State) :
    (ringDrop k s).typ = s.typ := rfl
@[simp] theorem ringDrop_plen (k : Nat) (s : State) :
    (ringDrop k s).plen = s.plen := rfl
@[simp] theorem ringDrop_trem (k : Nat) (s : State) :
    (ringDrop k s).trem = s.trem := rfl
@[simp] theorem ringDrop_csum (k : Nat) (s : State) :
    (ringDrop k s).csum = s.csum := rfl
@[simp] theorem ringDrop_chkByte (k : Nat) (s : State) :
    (ringDrop k s).chkByte = s.chkByte := rfl
@[simp] theorem ringDrop_payload (k : Nat) (s : State) :
    (ringDrop k s).payload = s.payload := rfl
@[simp] theorem ringDrop_pktValid (k : Nat) (s : State) :
    (ringDrop k s).pktValid = s.pktValid := rfl
@[simp] theorem ringDrop_resyncCnt (k : Nat) (s : State) :
    (ringDrop k s).resyncCnt = s.resyncCnt := rfl
@[simp] theorem ringDrop_scratch (k : Nat) (s : State) :
    (ringDrop k s).scratch = s.scratch := rfl
@[simp] theorem ringDrop_sending (k : Nat) (s : State) :
    (ringDrop k s).sending = s.sending := rfl
@[simp] theorem ringDrop_inputs (k : Nat) (s : State) :
    (ringDrop k s).inputs = s.inputs := rfl
@[simp] theorem ringDrop_text (k : Nat) (s : State) :
    (ringDrop k s).text = s.text := rfl
@[simp] theorem ringDrop_sink (k : Nat) (s : State) :
    (ringDrop k s).sink = s.sink := rfl
@[simp] theorem ringDrop_rsp (k : Nat) (s : State) :
    (ringDrop k s).rsp = s.rsp := rfl
@[simp] theorem ringDrop_txOut (k : Nat) (s : State) :
    (ringDrop k s).txOut = s.txOut := rfl
@[simp] theorem ringDrop_freeCount (k : Nat) (s : State) :
    (ringDrop k s).freeCount = s.freeCount := rfl

@[simp] theorem teardown_cfg (s : State) :
    (teardown s).cfg = s.cfg := rfl
@[simp] theorem teardown_q (s : State) :
    (teardown s).q = [] := rfl
@[simp] theorem teardown_pstate (s : State) :
    (teardown s).pstate = .searchingHeader := rfl
@[simp] theorem teardown_dest (s : State) :
    (teardown s).dest = s.dest := rfl
@[simp] theorem teardown_src (s : State) :
    (teardown s).src = s.src := rfl
@[simp] theorem teardown_typ (s : State) :
    (teardown s).typ = s.typ := rfl
@[simp] theorem teardown_plen (s : State) :
    (teardown s).plen = s.plen := rfl
@[simp] theorem teardown_trem (s : State) :
    (teardown s).trem = s.trem := rfl
@[simp] theorem teardown_csum (s : State) :
    (teardown s).csum = s.csum := rfl
@[simp] theorem teardown_chkByte (s : State) :
    (teardown s).chkByte = s.chkByte := rfl
@[simp] theorem teardown_payload (s : State) :
    (teardown s).payload = s.payload := rfl
@[simp] theorem teardown_pktValid (s : State) :
    (teardown s).pktValid = false := rfl
@[simp] theorem teardown_resyncCnt (s : State) :
    (teardown s).resyncCnt = s.resyncCnt := rfl
@[simp] theorem teardown_scratch (s : State) :
    (teardown s).scratch = s.scratch := rfl
@[simp] theorem teardown_sending (s : State) :
    (teardown s).sending = s.sending := rfl
@[simp] theorem teardown_inputs (s : State) :
    (teardown s).inputs = s.inputs := rfl
@[simp] theorem teardown_text (s : State) :
    (teardown s).text = s.text := rfl
@[simp] theorem teardown_sink (s : State) :
    (teardown s).sink = s.sink := rfl
@[simp] theorem teardown_rsp (s : State) :
    (teardown s).rsp = s.rsp := rfl
@[simp] theorem teardown_txOut (s : State) :
    (teardown s).txOut = s.txOut := rfl
@[simp] theorem teardown_freeCount (s : State) :
    (teardown s).freeCount = s.freeCount := rfl

@[simp] theorem resync_cfg (s : State) :
    (resync s).cfg = s.cfg := rfl
@[simp] theorem resync_q (s : State) :
    (resync s).q = s.q.dropWhile (· != sync0) := rfl
@[simp] theorem resync_pstate (s : State) :
    (resync s).pstate = s.pstate := rfl
@[simp] theorem resync_dest (s : State) :
    (resync s).dest = s.dest := rfl
@[simp] theorem resync_src (s : State) :
    (resync s).src = s.src := rfl
@[simp] theorem resync_typ (s : State) :
    (resync s).typ = s.typ := rfl
@[simp] theorem resync_plen (s : State) :
    (resync s).plen = s.plen := rfl
@[simp] theorem resync_trem (s : State) :
    (resync s).trem = s.trem := rfl
@[simp] theorem resync_csum (s : State) :
    (resync s).csum = s.csum := rfl
@[simp] theorem resync_chkByte (s : State) :
    (resync s).chkByte = s.chkByte := rfl
@[simp] theorem resync_payload (s : State) :
    (resync s).payload = s.payload := rfl
@[simp] theorem resync_pktValid (s : State) :
    (resync s).pktValid = s.pktValid := rfl
@[simp] theorem resync_resyncCnt (s : State) :
    (resync s).resyncCnt = s.resyncCnt + 1 := rfl
@[simp] theorem resync_scratch (s : State) :
    (resync s).scratch = s.scratch := rfl
@[simp] theorem resync_sending (s : State) :
    (resync s).sending = s.sending := rfl
@[simp] theorem resync_inputs (s : State) :
    (resync s).inputs = s.inputs := rfl
@[simp] theorem resync_text (s : State) :
    (resync s).text = s.text := rfl
@[simp] theorem resync_sink (s : State) :
    (resync s).sink = s.sink := rfl
@[simp] theorem resync_rsp (s : State) :
    (resync s).rsp = s.rsp := rfl
@[simp] theorem resync_txOut (s : State) :
    (resync s).txOut = s.txOut := rfl
@[simp] theorem resync_freeCount (s : State) :
    (resync s).freeCount = s.freeCount := rfl

@[simp] theorem finishFrame_cfg (s : State) :
    (finishFrame s).cfg = s.cfg := rfl
@[simp] theorem finishFrame_q (s : State) :
    (finishFrame s).q = s.q := rfl
@[simp] theorem finishFrame_pstate (s : State) :
    (finishFrame s).pstate = .searchingHeader := rfl
@[simp] theorem finishFrame_dest (s : State) :
    (finishFrame s).dest = s.dest := rfl
@[simp] theorem finishFrame_src (s : State) :
    (finishFrame s).src = s.src := rfl
@[simp] theorem finishFrame_typ (s : State) :
    (finishFrame s).typ = s.typ := rfl
@[simp] theorem finishFrame_plen (s : State) :
    (finishFrame s).plen = s.plen := rfl
@[simp] theorem finishFrame_trem (s : State) :
    (finishFrame s).trem = s.trem := rfl
@[simp] theorem finishFrame_csum (s : State) :
    (finishFrame s).csum = s.csum := rfl
@[simp] theorem finishFrame_chkByte (s : State) :
    (finishFrame s).chkByte = s.chkByte := rfl
@[simp] theorem finishFrame_payload (s : State) :
    (finishFrame s).payload = s.payload := rfl
@[simp] theorem finishFrame_pktValid (s : State) :
    (finishFrame s).pktValid = accepts s := rfl
@[simp] theorem finishFrame_resyncCnt (s : State) :
    (finishFrame s).resyncCnt = s.resyncCnt := rfl
@[simp] theorem finishFrame_scratch (s : State) :
    (finishFrame s).scratch = s.scratch := rfl
@[simp] theorem finishFrame_sending (s : State) :
    (finishFrame s).sending = s.sending := rfl
@[simp] theorem finishFrame_inputs (s : State) :
    (finishFrame s).inputs = s.inputs := rfl
@[simp] theorem finishFrame_text (s : State) :
    (finishFrame s).text = s.text := rfl
@[simp] theorem finishFrame_sink (s : State) :
    (finishFrame s).sink = s.sink := rfl
@[simp] theorem finishFrame_rsp (s : State) :
    (finishFrame s).rsp = s.rsp ++ [⟨.ok, bitWord (accepts s), 0, []⟩] := rfl
@[simp] theorem finishFrame_txOut (s : State) :
    (finishFrame s).txOut = s.txOut := rfl
@[simp] theorem finishFrame_freeCount (s : State) :
    (finishFrame s).freeCount = s.freeCount := rfl

@[simp] theorem takeRx_cfg (b : Byte) (s : State) :
    (takeRx b s).cfg = s.cfg := rfl
@[simp] theorem takeRx_q (b : Byte) (s : State) :
    (takeRx b s).q = (if s.q.length = s.cfg.rbCap then s.q.drop 1 else s.q) ++ [b] := rfl
@[simp] theorem takeRx_pstate (b : Byte) (s : State) :
    (takeRx b s).pstate = s.pstate := rfl
@[simp] theorem takeRx_dest (b : Byte) (s : State) :
    (takeRx b s).dest = s.dest := rfl
@[simp] theorem takeRx_src (b : Byte) (s : State) :
    (takeRx b s).src = s.src := rfl
@[simp] theorem takeRx_typ (b : Byte) (s : State) :
    (takeRx b s).typ = s.typ := rfl
@[simp] theorem takeRx_plen (b : Byte) (s : State) :
    (takeRx b s).plen = s.plen := rfl
@[simp] theorem takeRx_trem (b : Byte) (s : State) :
    (takeRx b s).trem = s.trem := rfl
@[simp] theorem takeRx_csum (b : Byte) (s : State) :
    (takeRx b s).csum = s.csum := rfl
@[simp] theorem takeRx_chkByte (b : Byte) (s : State) :
    (takeRx b s).chkByte = s.chkByte := rfl
@[simp] theorem takeRx_payload (b : Byte) (s : State) :
    (takeRx b s).payload = s.payload := rfl
@[simp] theorem takeRx_pktValid (b : Byte) (s : State) :
    (takeRx b s).pktValid = s.pktValid := rfl
@[simp] theorem takeRx_resyncCnt (b : Byte) (s : State) :
    (takeRx b s).resyncCnt = s.resyncCnt := rfl
@[simp] theorem takeRx_scratch (b : Byte) (s : State) :
    (takeRx b s).scratch = s.scratch := rfl
@[simp] theorem takeRx_sending (b : Byte) (s : State) :
    (takeRx b s).sending = s.sending := rfl
@[simp] theorem takeRx_inputs (b : Byte) (s : State) :
    (takeRx b s).inputs = s.inputs := rfl
@[simp] theorem takeRx_text (b : Byte) (s : State) :
    (takeRx b s).text = s.text := rfl
@[simp] theorem takeRx_sink (b : Byte) (s : State) :
    (takeRx b s).sink = s.sink := rfl
@[simp] theorem takeRx_rsp (b : Byte) (s : State) :
    (takeRx b s).rsp = s.rsp := rfl
@[simp] theorem takeRx_txOut (b : Byte) (s : State) :
    (takeRx b s).txOut = s.txOut := rfl
@[simp] theorem takeRx_freeCount (b : Byte) (s : State) :
    (takeRx b s).freeCount = s.freeCount := rfl

@[simp] theorem takeClear_cfg (s : State) :
    (takeClear s).cfg = s.cfg := rfl
@[simp] theorem takeClear_q (s : State) :
    (takeClear s).q = [] := rfl
@[simp] theorem takeClear_pstate (s : State) :
    (takeClear s).pstate = .searchingHeader := rfl
@[simp] theorem takeClear_dest (s : State) :
    (takeClear s).dest = s.dest := rfl
@[simp] theorem takeClear_src (s : State) :
    (takeClear s).src = s.src := rfl
@[simp] theorem takeClear_typ (s : State) :
    (takeClear s).typ = s.typ := rfl
@[simp] theorem takeClear_plen (s : State) :
    (takeClear s).plen = s.plen := rfl
@[simp] theorem takeClear_trem (s : State) :
    (takeClear s).trem = s.trem := rfl
@[simp] theorem takeClear_csum (s : State) :
    (takeClear s).csum = s.csum := rfl
@[simp] theorem takeClear_chkByte (s : State) :
    (takeClear s).chkByte = s.chkByte := rfl
@[simp] theorem takeClear_payload (s : State) :
    (takeClear s).payload = s.payload := rfl
@[simp] theorem takeClear_pktValid (s : State) :
    (takeClear s).pktValid = false := rfl
@[simp] theorem takeClear_resyncCnt (s : State) :
    (takeClear s).resyncCnt = s.resyncCnt := rfl
@[simp] theorem takeClear_scratch (s : State) :
    (takeClear s).scratch = s.scratch := rfl
@[simp] theorem takeClear_sending (s : State) :
    (takeClear s).sending = s.sending := rfl
@[simp] theorem takeClear_inputs (s : State) :
    (takeClear s).inputs = s.inputs := rfl
@[simp] theorem takeClear_text (s : State) :
    (takeClear s).text = s.text := rfl
@[simp] theorem takeClear_sink (s : State) :
    (takeClear s).sink = s.sink := rfl
@[simp] theorem takeClear_rsp (s : State) :
    (takeClear s).rsp = s.rsp := rfl
@[simp] theorem takeClear_txOut (s : State) :
    (takeClear s).txOut = s.txOut := rfl
@[simp] theorem takeClear_freeCount (s : State) :
    (takeClear s).freeCount = s.freeCount := rfl

@[simp] theorem illegalCommand_cfg (s : State) :
    (illegalCommand s).cfg = s.cfg := rfl
@[simp] theorem illegalCommand_q (s : State) :
    (illegalCommand s).q = s.q := rfl
@[simp] theorem illegalCommand_pstate (s : State) :
    (illegalCommand s).pstate = s.pstate := rfl
@[simp] theorem illegalCommand_dest (s : State) :
    (illegalCommand s).dest = s.dest := rfl
@[simp] theorem illegalCommand_src (s : State) :
    (illegalCommand s).src = s.src := rfl
@[simp] theorem illegalCommand_typ (s : State) :
    (illegalCommand s).typ = s.typ := rfl
@[simp] theorem illegalCommand_plen (s : State) :
    (illegalCommand s).plen = s.plen := rfl
@[simp] theorem illegalCommand_trem (s : State) :
    (illegalCommand s).trem = s.trem := rfl
@[simp] theorem illegalCommand_csum (s : State) :
    (illegalCommand s).csum = s.csum := rfl
@[simp] theorem illegalCommand_chkByte (s : State) :
    (illegalCommand s).chkByte = s.chkByte := rfl
@[simp] theorem illegalCommand_payload (s : State) :
    (illegalCommand s).payload = s.payload := rfl
@[simp] theorem illegalCommand_pktValid (s : State) :
    (illegalCommand s).pktValid = s.pktValid := rfl
@[simp] theorem illegalCommand_resyncCnt (s : State) :
    (illegalCommand s).resyncCnt = s.resyncCnt := rfl
@[simp] theorem illegalCommand_scratch (s : State) :
    (illegalCommand s).scratch = s.scratch := rfl
@[simp] theorem illegalCommand_sending (s : State) :
    (illegalCommand s).sending = s.sending := rfl
@[simp] theorem illegalCommand_inputs (s : State) :
    (illegalCommand s).inputs = s.inputs := rfl
@[simp] theorem illegalCommand_text (s : State) :
    (illegalCommand s).text = s.text := rfl
@[simp] theorem illegalCommand_sink (s : State) :
    (illegalCommand s).sink = s.sink := rfl
@[simp] theorem illegalCommand_rsp (s : State) :
    (illegalCommand s).rsp = s.rsp ++ [⟨.illegalCommand, Config.freeWord s.freeCount, Config.freeWord (s.freeCount + 1), []⟩] := rfl
@[simp] theorem illegalCommand_txOut (s : State) :
    (illegalCommand s).txOut = s.txOut := rfl
@[simp] theorem illegalCommand_freeCount (s : State) :
    (illegalCommand s).freeCount = s.freeCount + 2 := rfl

@[simp] theorem offerEvents_cfg (es : List Event) (s : State) :
    (offerEvents es s).cfg = s.cfg := rfl
@[simp] theorem offerEvents_q (es : List Event) (s : State) :
    (offerEvents es s).q = s.q := rfl
@[simp] theorem offerEvents_pstate (es : List Event) (s : State) :
    (offerEvents es s).pstate = s.pstate := rfl
@[simp] theorem offerEvents_dest (es : List Event) (s : State) :
    (offerEvents es s).dest = s.dest := rfl
@[simp] theorem offerEvents_src (es : List Event) (s : State) :
    (offerEvents es s).src = s.src := rfl
@[simp] theorem offerEvents_typ (es : List Event) (s : State) :
    (offerEvents es s).typ = s.typ := rfl
@[simp] theorem offerEvents_plen (es : List Event) (s : State) :
    (offerEvents es s).plen = s.plen := rfl
@[simp] theorem offerEvents_trem (es : List Event) (s : State) :
    (offerEvents es s).trem = s.trem := rfl
@[simp] theorem offerEvents_csum (es : List Event) (s : State) :
    (offerEvents es s).csum = s.csum := rfl
@[simp] theorem offerEvents_chkByte (es : List Event) (s : State) :
    (offerEvents es s).chkByte = s.chkByte := rfl
@[simp] theorem offerEvents_payload (es : List Event) (s : State) :
    (offerEvents es s).payload = s.payload := rfl
@[simp] theorem offerEvents_pktValid (es : List Event) (s : State) :
    (offerEvents es s).pktValid = s.pktValid := rfl
@[simp] theorem offerEvents_resyncCnt (es : List Event) (s : State) :
    (offerEvents es s).resyncCnt = s.resyncCnt := rfl
@[simp] theorem offerEvents_scratch (es : List Event) (s : State) :
    (offerEvents es s).scratch = s.scratch := rfl
@[simp] theorem offerEvents_sending (es : List Event) (s : State) :
    (offerEvents es s).sending = s.sending := rfl
@[simp] theorem offerEvents_inputs (es : List Event) (s : State) :
    (offerEvents es s).inputs = s.inputs ++ es := rfl
@[simp] theorem offerEvents_text (es : List Event) (s : State) :
    (offerEvents es s).text = s.text := rfl
@[simp] theorem offerEvents_sink (es : List Event) (s : State) :
    (offerEvents es s).sink = s.sink := rfl
@[simp] theorem offerEvents_rsp (es : List Event) (s : State) :
    (offerEvents es s).rsp = s.rsp := rfl
@[simp] theorem offerEvents_txOut (es : List Event) (s : State) :
    (offerEvents es s).txOut = s.txOut := rfl
@[simp] theorem offerEvents_freeCount (es : List Event) (s : State) :
    (offerEvents es s).freeCount = s.freeCount := rfl

@[simp] theorem offerText_cfg (bs : List Byte) (s : State) :
    (offerText bs s).cfg = s.cfg := rfl
@[simp] theorem offerText_q (bs : List Byte) (s : State) :
    (offerText bs s).q = s.q := rfl
@[simp] theorem offerText_pstate (bs : List Byte) (s : State) :
    (offerText bs s).pstate = s.pstate := rfl
@[simp] theorem offerText_dest (bs : List Byte) (s : State) :
    (offerText bs s).dest = s.dest := rfl
@[simp] theorem offerText_src (bs : List Byte) (s : State) :
    (offerText bs s).src = s.src := rfl
@[simp] theorem offerText_typ (bs : List Byte) (s : State) :
    (offerText bs s).typ = s.typ := rfl
@[simp] theorem offerText_plen (bs : List Byte) (s : State) :
    (offerText bs s).plen = s.plen := rfl
@[simp] theorem offerText_trem (bs : List Byte) (s : State) :
    (offerText bs s).trem = s.trem := rfl
@[simp] theorem offerText_csum (bs : List Byte) (s : State) :
    (offerText bs s).csum = s.csum := rfl
@[simp] theorem offerText_chkByte (bs : List Byte) (s : State) :
    (offerText bs s).chkByte = s.chkByte := rfl
@[simp] theorem offerText_payload (bs : List Byte) (s : State) :
    (offerText bs s).payload = s.payload := rfl
@[simp] theorem offerText_pktValid (bs : List Byte) (s : State) :
    (offerText bs s).pktValid = s.pktValid := rfl
@[simp] theorem offerText_resyncCnt (bs : List Byte) (s : State) :
    (offerText bs s).resyncCnt = s.resyncCnt := rfl
@[simp] theorem offerText_scratch (bs : List Byte) (s : State) :
    (offerText bs s).scratch = s.scratch := rfl
@[simp] theorem offerText_sending (bs : List Byte) (s : State) :
    (offerText bs s).sending = s.sending := rfl
@[simp] theorem offerText_inputs (bs : List Byte) (s : State) :
    (offerText bs s).inputs = s.inputs := rfl
@[simp] theorem offerText_text (bs : List Byte) (s : State) :
    (offerText bs s).text = s.text ++ bs := rfl
@[simp] theorem offerText_sink (bs : List Byte) (s : State) :
    (offerText bs s).sink = s.sink := rfl
@[simp] theorem offerText_rsp (bs : List Byte) (s : State) :
    (offerText bs s).rsp = s.rsp := rfl
@[simp] theorem offerText_txOut (bs : List Byte) (s : State) :
    (offerText bs s).txOut = s.txOut := rfl
@[simp] theorem offerText_freeCount (bs : List Byte) (s : State) :
    (offerText bs s).freeCount = s.freeCount := rfl

@[simp] theorem offerAnswers_cfg (as : List SinkAnswer) (s : State) :
    (offerAnswers as s).cfg = s.cfg := rfl
@[simp] theorem offerAnswers_q (as : List SinkAnswer) (s : State) :
    (offerAnswers as s).q = s.q := rfl
@[simp] theorem offerAnswers_pstate (as : List SinkAnswer) (s : State) :
    (offerAnswers as s).pstate = s.pstate := rfl
@[simp] theorem offerAnswers_dest (as : List SinkAnswer) (s : State) :
    (offerAnswers as s).dest = s.dest := rfl
@[simp] theorem offerAnswers_src (as : List SinkAnswer) (s : State) :
    (offerAnswers as s).src = s.src := rfl
@[simp] theorem offerAnswers_typ (as : List SinkAnswer) (s : State) :
    (offerAnswers as s).typ = s.typ := rfl
@[simp] theorem offerAnswers_plen (as : List SinkAnswer) (s : State) :
    (offerAnswers as s).plen = s.plen := rfl
@[simp] theorem offerAnswers_trem (as : List SinkAnswer) (s : State) :
    (offerAnswers as s).trem = s.trem := rfl
@[simp] theorem offerAnswers_csum (as : List SinkAnswer) (s : State) :
    (offerAnswers as s).csum = s.csum := rfl
@[simp] theorem offerAnswers_chkByte (as : List SinkAnswer) (s : State) :
    (offerAnswers as s).chkByte = s.chkByte := rfl
@[simp] theorem offerAnswers_payload (as : List SinkAnswer) (s : State) :
    (offerAnswers as s).payload = s.payload := rfl
@[simp] theorem offerAnswers_pktValid (as : List SinkAnswer) (s : State) :
    (offerAnswers as s).pktValid = s.pktValid := rfl
@[simp] theorem offerAnswers_resyncCnt (as : List SinkAnswer) (s : State) :
    (offerAnswers as s).resyncCnt = s.resyncCnt := rfl
@[simp] theorem offerAnswers_scratch (as : List SinkAnswer) (s : State) :
    (offerAnswers as s).scratch = s.scratch := rfl
@[simp] theorem offerAnswers_sending (as : List SinkAnswer) (s : State) :
    (offerAnswers as s).sending = s.sending := rfl
@[simp] theorem offerAnswers_inputs (as : List SinkAnswer) (s : State) :
    (offerAnswers as s).inputs = s.inputs := rfl
@[simp] theorem offerAnswers_text (as : List SinkAnswer) (s : State) :
    (offerAnswers as s).text = s.text := rfl
@[simp] theorem offerAnswers_sink (as : List SinkAnswer) (s : State) :
    (offerAnswers as s).sink = s.sink ++ as := rfl
@[simp] theorem offerAnswers_rsp (as : List SinkAnswer) (s : State) :
    (offerAnswers as s).rsp = s.rsp := rfl
@[simp] theorem offerAnswers_txOut (as : List SinkAnswer) (s : State) :
    (offerAnswers as s).txOut = s.txOut := rfl
@[simp] theorem offerAnswers_freeCount (as : List SinkAnswer) (s : State) :
    (offerAnswers as s).freeCount = s.freeCount := rfl

@[simp] theorem powerOn_cfg (s : State) :
    (powerOn s).cfg = s.cfg := rfl
@[simp] theorem powerOn_q (s : State) :
    (powerOn s).q = [] := rfl
@[simp] theorem powerOn_pstate (s : State) :
    (powerOn s).pstate = .searchingHeader := rfl
@[simp] theorem powerOn_pktValid (s : State) :
    (powerOn s).pktValid = false := rfl
@[simp] theorem powerOn_resyncCnt (s : State) :
    (powerOn s).resyncCnt = 0 := rfl
@[simp] theorem powerOn_sending (s : State) :
    (powerOn s).sending = none := rfl
@[simp] theorem powerOn_inputs (s : State) :
    (powerOn s).inputs = s.inputs := rfl
@[simp] theorem powerOn_text (s : State) :
    (powerOn s).text = s.text := rfl
@[simp] theorem powerOn_sink (s : State) :
    (powerOn s).sink = s.sink := rfl
@[simp] theorem powerOn_rsp (s : State) :
    (powerOn s).rsp = s.rsp := rfl
@[simp] theorem powerOn_txOut (s : State) :
    (powerOn s).txOut = s.txOut := rfl
@[simp] theorem powerOn_freeCount (s : State) :
    (powerOn s).freeCount = s.freeCount + 7 := rfl

end Sys2Proof.Machine
end

