-- ==== Sys2Proof/Laws/Ops.lean ====
section
/-! SUPPORT. For each shared operation, once, everything it can do. -/

namespace Sys2Proof.Machine

/-! Checksums. -/

@[simp] theorem byteTotal_nil : byteTotal [] = 0 := rfl

@[simp] theorem byteTotal_cons (b : Byte) (bs : List Byte) : byteTotal (b :: bs) = b.toNat + byteTotal bs := by
  simp [byteTotal]

@[simp] theorem byteTotal_append (as bs : List Byte) : byteTotal (as ++ bs) = byteTotal as + byteTotal bs := by
  simp [byteTotal]

/-- The accumulator holds the exact sum mod 256 (R22). -/
theorem addToSum_toNat (c : Byte) (bs : List Byte) :
    (addToSum c bs).toNat = (c.toNat + byteTotal bs) % 256 := by
  unfold addToSum
  induction bs generalizing c with
  | nil => have := c.isLt; simp; omega
  | cons b bs ih => rw [List.foldl_cons, ih, BitVec.toNat_add, byteTotal_cons]; omega

theorem addToSum_append (c : Byte) (as bs : List Byte) : addToSum c (as ++ bs) = addToSum (addToSum c as) bs := by
  simp [addToSum]

/-- The accumulator is 0 exactly if the exact sum is 0 mod 256 (R84). -/
theorem addToSum_eq_zero_iff (c : Byte) (bs : List Byte) :
    addToSum c bs = 0 ↔ (c.toNat + byteTotal bs) % 256 = 0 := by
  rw [← addToSum_toNat, ← BitVec.toNat_inj]; rfl

/-- A frame with its checksum byte sums to 0 mod 256 (R59). -/
theorem byteTotal_checksum (bs : List Byte) : byteTotal (bs ++ [checksumByte bs]) % 256 = 0 := by
  simp only [byteTotal_append, byteTotal_cons, byteTotal_nil, checksumByte, BitVec.toNat_ofNat]
  omega

/-! Byte order. -/

theorem bigEndian_toNat (hi lo : Byte) : (bigEndian hi lo).toNat = 256 * hi.toNat + lo.toNat := by
  unfold bigEndian
  rw [BitVec.toNat_append, Nat.shiftLeft_eq, ← Nat.shiftLeft_eq, ← Nat.shiftLeft_add_eq_or_of_lt lo.isLt,
    Nat.shiftLeft_eq]
  omega

theorem highByte_toNat (h : Half) : (highByte h).toNat = h.toNat / 256 := by
  have := h.isLt
  simp only [highByte, BitVec.extractLsb'_toNat, Nat.shiftRight_eq_div_pow]
  omega

theorem lowByte_toNat (h : Half) : (lowByte h).toNat = h.toNat % 256 := by
  simp [lowByte, BitVec.extractLsb'_toNat]

@[simp] theorem highByte_bigEndian (hi lo : Byte) : highByte (bigEndian hi lo) = hi := by
  have := lo.isLt
  apply BitVec.eq_of_toNat_eq; rw [highByte_toNat, bigEndian_toNat]; omega

@[simp] theorem lowByte_bigEndian (hi lo : Byte) : lowByte (bigEndian hi lo) = lo := by
  have := lo.isLt
  apply BitVec.eq_of_toNat_eq; rw [lowByte_toNat, bigEndian_toNat]; omega

@[simp] theorem bigEndian_highByte_lowByte (h : Half) : bigEndian (highByte h) (lowByte h) = h := by
  apply BitVec.eq_of_toNat_eq; rw [bigEndian_toNat, highByte_toNat, lowByte_toNat]; omega

/-- TREM as POLL computes it is PLEN + 1, with no wrap (R21). -/
theorem trem_toNat (h : Half) : (h.setWidth 17 + 1 : TrailCount).toNat = h.toNat + 1 := by
  have := h.isLt
  have h1 : (1 : TrailCount).toNat = 1 := rfl
  simp only [BitVec.toNat_add, BitVec.toNat_setWidth, h1]
  omega

/-! Header detection (R81, R82). -/

theorem detectHeader_short {s : State} (h : s.q.length < 7) : detectHeader s = (s, false) := by
  unfold detectHeader
  split
  · rename_i hq; rw [hq] at h; simp at h; omega
  · rfl

theorem detectHeader_badFirst {s : State} {b : Byte} {rest : List Byte} (hq : s.q = b :: rest)
    (hl : 6 ≤ rest.length) (hb : b ≠ sync0) :
    detectHeader s = (resync { s with csum := 0, q := rest }, false) := by
  match rest, hl with
  | b1 :: d :: sr :: ty :: hi :: lo :: rest, _ => simp [detectHeader, hq, hb]

theorem detectHeader_badSecond {s : State} {b : Byte} {rest : List Byte} (hq : s.q = sync0 :: b :: rest)
    (hl : 5 ≤ rest.length) (hb : b ≠ sync1) :
    detectHeader s = (resync { s with csum := 0, q := rest }, false) := by
  match rest, hl with
  | d :: sr :: ty :: hi :: lo :: rest, _ => simp [detectHeader, hq, hb]

theorem detectHeader_ready {s : State} {d sr ty hi lo : Byte} {rest : List Byte}
    (hq : s.q = sync0 :: sync1 :: d :: sr :: ty :: hi :: lo :: rest) :
    detectHeader s =
      ({ s with
          csum := addToSum 0 [sync0, sync1, d, sr, ty, hi, lo], dest := d, src := sr, typ := ty,
          plen := bigEndian hi lo, trem := (bigEndian hi lo).setWidth 17 + 1,
          pstate := .headerValid, q := rest }, true) := by
  simp [detectHeader, hq]

/-- A list of at least 7 bytes begins in one of three ways. -/
theorem header_shapes (l : List Byte) (h : 7 ≤ l.length) :
    (∃ b rest, l = b :: rest ∧ 6 ≤ rest.length ∧ b ≠ sync0) ∨
    (∃ b rest, l = sync0 :: b :: rest ∧ 5 ≤ rest.length ∧ b ≠ sync1) ∨
    (∃ d sr ty hi lo rest, l = sync0 :: sync1 :: d :: sr :: ty :: hi :: lo :: rest) := by
  match l, h with
  | b0 :: b1 :: d :: sr :: ty :: hi :: lo :: rest, _ =>
    by_cases h0 : b0 = sync0
    · by_cases h1 : b1 = sync1
      · exact .inr (.inr ⟨d, sr, ty, hi, lo, rest, by rw [h0, h1]⟩)
      · exact .inr (.inl ⟨b1, _, by rw [h0], by simp, h1⟩)
    · exact .inl ⟨b0, _, rfl, by simp, h0⟩

/-! Trailing bytes (R83) and the end of POLL (R80). -/

theorem consumeTrailing_next {s : State} {p : List Byte} {c : Byte} {rest : List Byte}
    (hq : s.q = p ++ c :: rest) (hp : p.length = s.plen.toNat) :
    consumeTrailing s = .next { s with
      payload := s.payload.writeFrom 0 p, chkByte := c, csum := addToSum s.csum (p ++ [c]), q := rest } := by
  unfold consumeTrailing
  have h1 : s.q.drop s.plen.toNat = c :: rest := by rw [hq, ← hp]; simp
  have h2 : s.q.take s.plen.toNat = p := by rw [hq, ← hp]; simp
  rw [h1, h2]

theorem pollTrailing_wait {s : State} (h : s.q.length < s.trem.toNat) :
    pollTrailing s = .next (respond .ok 0 0 [] s) := by
  simp [pollTrailing, h]

theorem pollTrailing_complete {s : State} {p : List Byte} {c : Byte} {rest : List Byte}
    (hq : s.q = p ++ c :: rest) (hp : p.length = s.plen.toNat) (ht : s.trem.toNat = s.plen.toNat + 1) :
    pollTrailing s = .next (finishFrame { s with
      payload := s.payload.writeFrom 0 p, chkByte := c, csum := addToSum s.csum (p ++ [c]), q := rest }) := by
  have h : ¬ s.q.length < s.trem.toNat := by rw [ht, hq]; simp; omega
  simp only [pollTrailing, h, if_false, consumeTrailing_next hq hp]

/-- A list longer than n is n bytes, one byte and the rest. -/
theorem split_trailing (l : List Byte) (n : Nat) (h : n < l.length) :
    ∃ p c rest, l = p ++ c :: rest ∧ p.length = n :=
  ⟨l.take n, l[n], l.drop (n + 1), by rw [← List.drop_eq_getElem_cons h, List.take_append_drop],
    by simp; omega⟩

/-- Whatever the state, a POLL in HeaderValid waits, or completes a frame, or meets an empty ring. -/
theorem pollTrailing_cases (s : State) :
    (s.q.length < s.trem.toNat ∧ pollTrailing s = .next (respond .ok 0 0 [] s)) ∨
    (s.trem.toNat ≤ s.q.length ∧ ∃ p c rest, s.q = p ++ c :: rest ∧ p.length = s.plen.toNat ∧
      pollTrailing s = .next (finishFrame { s with
        payload := s.payload.writeFrom 0 p, chkByte := c, csum := addToSum s.csum (p ++ [c]), q := rest })) ∨
    (s.trem.toNat ≤ s.q.length ∧ s.q.length ≤ s.plen.toNat ∧ pollTrailing s = .fault .popOnEmpty) := by
  by_cases h : s.q.length < s.trem.toNat
  · exact .inl ⟨h, pollTrailing_wait h⟩
  · by_cases h2 : s.plen.toNat < s.q.length
    · obtain ⟨p, c, rest, hq, hp⟩ := split_trailing s.q _ h2
      refine .inr (.inl ⟨by omega, p, c, rest, hq, hp, ?_⟩)
      simp only [pollTrailing, h, if_false, consumeTrailing_next hq hp]
    · refine .inr (.inr ⟨by omega, by omega, ?_⟩)
      have h3 : s.q.drop s.plen.toNat = [] := List.drop_eq_nil_of_le (by omega)
      simp only [pollTrailing, h, if_false, consumeTrailing, h3]

/-! The outbound channel (R104 to R106). -/

theorem writeScratch_fits {bytes : List Byte} {s : State} (h : bytes.length ≤ s.cfg.scratchCap) :
    writeScratch bytes s = .next { s with scratch := s.scratch.writeFrom 0 bytes } := by
  simp [writeScratch, h]

theorem writeScratch_overflow {bytes : List Byte} {s : State} (h : s.cfg.scratchCap < bytes.length) :
    writeScratch bytes s = .fault .outsideScratch := by
  simp [writeScratch]; omega

@[simp] theorem headerBytes_length (c : Config) (d t : Byte) (len : Half) : (headerBytes c d t len).length = 7 := rfl

theorem textFrame_length (c : Config) (d t : Byte) (text : List Byte) :
    (textFrame c d t text).length = keptLength c text.length + 9 := by
  simp [textFrame, keptLength]; omega

/-- A frame fits Scratch where SCRATCH_CAP is at least 9 (R6, R105). -/
theorem textFrame_fits {c : Config} (h : 9 ≤ c.scratchCap) (d t : Byte) (text : List Byte) :
    (textFrame c d t text).length ≤ c.scratchCap := by
  rw [textFrame_length, keptLength]; omega

/-- Every frame SENDTEXT builds sums to 0 mod 256 (R59). -/
theorem textFrame_total (c : Config) (d t : Byte) (text : List Byte) :
    byteTotal (textFrame c d t text) % 256 = 0 := byteTotal_checksum _

/-- What the transport takes of the offered bytes: a first part; it broke only before the last; the answers met are
used up; without a break it takes all or its answers run out. -/
theorem sinkTake_spec (bytes : List Byte) (answers : List SinkAnswer) :
    ∃ k, (sinkTake bytes answers).1 = bytes.take k ∧ k ≤ bytes.length ∧
      ((sinkTake bytes answers).2.2 = true ∧ k < bytes.length ∧
          answers = List.replicate k .take ++ .broken :: (sinkTake bytes answers).2.1 ∨
       (sinkTake bytes answers).2.2 = false ∧
          answers = List.replicate k .take ++ (sinkTake bytes answers).2.1 ∧
          (k < bytes.length → (sinkTake bytes answers).2.1 = [])) := by
  induction bytes generalizing answers with
  | nil => exact ⟨0, by simp [sinkTake]⟩
  | cons b bs ih =>
    match answers with
    | [] => exact ⟨0, by simp [sinkTake]⟩
    | .broken :: as => exact ⟨0, by simp [sinkTake]⟩
    | .take :: as =>
      obtain ⟨k, h1, h2, h3⟩ := ih as
      refine ⟨k + 1, by simp [sinkTake, h1], by simp; omega, ?_⟩
      rcases h3 with ⟨hb, hk, ha⟩ | ⟨hb, ha, hk⟩
      · refine .inl ⟨by simp [sinkTake, hb], by simp; omega, ?_⟩
        simp only [sinkTake, List.replicate_succ, List.cons_append]; rw [← ha]
      · refine .inr ⟨by simp [sinkTake, hb], ?_, fun h => ?_⟩
        · simp only [sinkTake, List.replicate_succ, List.cons_append]; rw [← ha]
        · simpa [sinkTake] using hk (by simp at h; omega)

/-- The transport takes every byte. -/
theorem sinkTake_all (bytes : List Byte) (as : List SinkAnswer) :
    sinkTake bytes (List.replicate bytes.length .take ++ as) = (bytes, as, false) := by
  induction bytes with
  | nil => simp [sinkTake]
  | cons b bs ih => simp [sinkTake, List.replicate_succ, ih]

/-- The transport takes k bytes and breaks. -/
theorem sinkTake_broken (bytes : List Byte) (k : Nat) (h : k < bytes.length) (as : List SinkAnswer) :
    sinkTake bytes (List.replicate k .take ++ .broken :: as) = (bytes.take k, as, true) := by
  induction bytes generalizing k with
  | nil => simp at h
  | cons b bs ih =>
    cases k with
    | zero => simp [sinkTake]
    | succ k => simp [sinkTake, List.replicate_succ, ih k (by simpa using h)]

/-- The transport takes k bytes and then neither takes nor refuses. -/
theorem sinkTake_stall (bytes : List Byte) (k : Nat) (h : k < bytes.length) :
    sinkTake bytes (List.replicate k .take) = (bytes.take k, [], false) := by
  induction bytes generalizing k with
  | nil => simp at h
  | cons b bs ih =>
    cases k with
    | zero => simp [sinkTake]
    | succ k => simp [sinkTake, List.replicate_succ, ih k (by simpa using h)]

/-- Transmit ends in one of three ways: broken after k bytes, waiting after k bytes, or all taken (R106). -/
theorem transmit_cases (frame : List Byte) (sent : Nat) (s : State) :
    ∃ out as k,
      k = sent + out.length ∧
      (k < frame.length ∧ transmit frame sent s = { s with
          txOut := s.txOut ++ out, sink := as, sending := none,
          rsp := s.rsp ++ [⟨.transportBroken, countWord frame.length, countWord k, []⟩] } ∨
       k < frame.length ∧ transmit frame sent s = { s with
          txOut := s.txOut ++ out, sink := as, sending := some (.transmit frame k) } ∨
       frame.length ≤ k ∧ transmit frame sent s = { s with
          txOut := s.txOut ++ out, sink := as, sending := none,
          rsp := s.rsp ++ [⟨.ok, countWord frame.length, countWord frame.length, []⟩] }) := by
  obtain ⟨k, h1, h2, h3⟩ := sinkTake_spec (frame.drop sent) s.sink
  refine ⟨(sinkTake (frame.drop sent) s.sink).1, (sinkTake (frame.drop sent) s.sink).2.1, _, rfl, ?_⟩
  have hlen : (sinkTake (frame.drop sent) s.sink).1.length = k := by
    rw [h1, List.length_take]; omega
  simp only [List.length_drop] at h2 h3
  rcases h3 with ⟨hb, hk, -⟩ | ⟨hb, -, -⟩
  · exact .inl ⟨by omega, by simp only [transmit, hb, if_true, respond]⟩
  · by_cases hf : sent + (sinkTake (frame.drop sent) s.sink).1.length < frame.length
    · exact .inr (.inl ⟨hf, by simp [transmit, hb, hf]⟩)
    · exact .inr (.inr ⟨by omega, by simp [transmit, hb, hf, respond]⟩)

/-- SENDTEXT's text phase waits, or builds the frame in Scratch and transmits it, or does not fit (R33, R105). -/
theorem collectText_cases (d t : Byte) (n : Half) (taken : List Byte) (s : State) :
    (taken.length + s.text.length < n.toNat ∧ collectText d t n taken s = .next { s with
        text := [], sending := some (.awaitText d t n (taken ++ s.text)) }) ∨
    (n.toNat ≤ taken.length + s.text.length ∧
      (textFrame s.cfg d t (taken ++ s.text.take (n.toNat - taken.length))).length ≤ s.cfg.scratchCap ∧
      collectText d t n taken s = .next (transmit (textFrame s.cfg d t (taken ++ s.text.take (n.toNat - taken.length))) 0
        { s with
          text := s.text.drop (n.toNat - taken.length),
          scratch := s.scratch.writeFrom 0 (textFrame s.cfg d t (taken ++ s.text.take (n.toNat - taken.length))) })) ∨
    (n.toNat ≤ taken.length + s.text.length ∧
      s.cfg.scratchCap < (textFrame s.cfg d t (taken ++ s.text.take (n.toNat - taken.length))).length ∧
      collectText d t n taken s = .fault .outsideScratch) := by
  by_cases h : taken.length + s.text.length < n.toNat
  · refine .inl ⟨h, ?_⟩
    have h1 : s.text.length ≤ n.toNat - taken.length := by omega
    simp [collectText, List.take_of_length_le h1, List.drop_of_length_le h1, h]
  · have h2 : ¬ (taken ++ s.text.take (n.toNat - taken.length)).length < n.toNat := by simp; omega
    by_cases hf : (textFrame s.cfg d t (taken ++ s.text.take (n.toNat - taken.length))).length ≤ s.cfg.scratchCap
    · refine .inr (.inl ⟨by omega, hf, ?_⟩)
      simp only [collectText, h2, if_false]
      rw [writeScratch_fits (by exact hf)]
    · refine .inr (.inr ⟨by omega, by omega, ?_⟩)
      simp only [collectText, h2, if_false]
      rw [writeScratch_overflow (by simpa using hf)]

/-! The parsers (R100). -/

/-- SignExtend gives a value of the width's range (R100). -/
theorem signExtend_range (raw : Half) (w : Nat) (h : 1 ≤ w) :
    -(2 : Int) ^ (w - 1) ≤ signExtend raw w ∧ signExtend raw w < 2 ^ (w - 1) := by
  obtain ⟨k, rfl⟩ : ∃ k, w = k + 1 := ⟨w - 1, by omega⟩
  have hlt : raw.toNat % 2 ^ (k + 1) < 2 ^ (k + 1) := Nat.mod_lt _ (by positivity)
  have hp : (2 : Nat) ^ (k + 1) = 2 * 2 ^ k := by ring
  have hpi : (2 : Int) ^ (k + 1) = 2 * 2 ^ k := by ring
  have hc : ((2 ^ k : Nat) : Int) = (2 : Int) ^ k := by push_cast; rfl
  simp only [signExtend, Nat.add_sub_cancel]
  generalize hv : raw.toNat % 2 ^ (k + 1) = v at hlt
  have hbit : v.testBit k = decide (2 ^ k ≤ v) := by
    rw [Nat.testBit_eq_decide_div_mod_eq]
    have hpos : 0 < 2 ^ k := by positivity
    congr 1
    apply propext
    constructor
    · intro h1
      by_contra h2
      rw [Nat.div_eq_of_lt (by omega)] at h1; omega
    · intro h1
      have h2 : v / 2 ^ k = 1 := by
        apply Nat.div_eq_of_lt_le <;> omega
      rw [h2]
  rw [hbit]
  split
  · rename_i h1; have h1 := of_decide_eq_true h1; omega
  · rename_i h1; have h1 : ¬ 2 ^ k ≤ v := by simpa using h1
    omega

end Sys2Proof.Machine
end

