-- ==== Sys2Proof/Laws/Step.lean ====
section
/-! SUPPORT. What each command and each step can do, once. -/

namespace Sys2Proof.Machine

/-! Each command as its meaning. -/

@[simp] theorem exec_append (v : Byte) (s : State) : exec (.append v) s = .next (respond .ok 0 0 [] (ringAppend v s)) := rfl

theorem exec_retrieve_nil {s : State} (h : s.q = []) : exec .retrieve s = .next (raise .emptyBuffer s) := by
  simp [exec, execRetrieve, h]

theorem exec_retrieve_cons {s : State} {b : Byte} {rest : List Byte} (h : s.q = b :: rest) :
    exec .retrieve s = .next (respond .ok (zextByte b) 0 [] { s with q := rest }) := by
  simp [exec, execRetrieve, h, ringDrop]

theorem exec_peek_nil {s : State} (h : s.q = []) : exec .peek s = .next (raise .emptyBuffer s) := by
  simp [exec, execPeek, h]

theorem exec_peek_cons {s : State} {b : Byte} {rest : List Byte} (h : s.q = b :: rest) :
    exec .peek s = .next (respond .ok (zextByte b) 0 [] s) := by
  simp [exec, execPeek, h]

theorem exec_readUpTo (n : Half) (s : State) :
    exec (.readUpTo n) s = .next (respond .ok (countWord (min n.toNat s.q.length)) 0
      (s.q.take (min n.toNat s.q.length)) (ringDrop (min n.toNat s.q.length) s)) := rfl

@[simp] theorem exec_available (s : State) : exec .available s = .next (respond .ok (countWord s.q.length) 0 [] s) := rfl

@[simp] theorem exec_rbReset (s : State) : exec .rbReset s = .next (respond .ok 0 0 [] (ringReset s)) := rfl

@[simp] theorem exec_getResync (s : State) : exec .getResync s = .next (respond .ok s.resyncCnt 0 [] s) := rfl

@[simp] theorem exec_getStat (s : State) : exec .getStat s = .next (respond .ok (statWord s) 0 [] s) := rfl

@[simp] theorem exec_clear (s : State) : exec .clear s = .next (respond .ok 0 0 [] (teardown s)) := rfl

theorem exec_sendText (d t : Byte) (n : Half) (s : State) :
    exec (.sendText d t n) s = collectText d t n [] s := rfl

/-! POLL (R79, R80). -/

theorem exec_poll_notYet {s s' : State} (hp : s.pstate = .searchingHeader)
    (h : detectHeader { s with pktValid := false } = (s', false)) :
    exec .poll s = .next (respond .ok 0 0 [] s') := by
  cases s; cases hp; simp only [exec, execPoll]; rw [h]

theorem exec_poll_ready {s s' : State} (hp : s.pstate = .searchingHeader)
    (h : detectHeader { s with pktValid := false } = (s', true)) : exec .poll s = pollTrailing s' := by
  cases s; cases hp; simp only [exec, execPoll]; rw [h]

theorem exec_poll_headerValid {s : State} (hp : s.pstate = .headerValid) :
    exec .poll s = pollTrailing { s with pktValid := false } := by
  cases s; cases hp; simp only [exec, execPoll]

/-- Everything a POLL can do (R79): too few bytes, a bad first or second byte, or the trailing bytes of the header
just read or held. -/
theorem exec_poll_cases (s : State) :
    (s.pstate = .searchingHeader ∧ s.q.length < 7 ∧
      exec .poll s = .next (respond .ok 0 0 [] { s with pktValid := false })) ∨
    (s.pstate = .searchingHeader ∧ ∃ b rest, s.q = b :: rest ∧ 6 ≤ rest.length ∧ b ≠ sync0 ∧
      exec .poll s = .next (respond .ok 0 0 [] (resync { s with pktValid := false, csum := 0, q := rest }))) ∨
    (s.pstate = .searchingHeader ∧ ∃ b rest, s.q = sync0 :: b :: rest ∧ 5 ≤ rest.length ∧ b ≠ sync1 ∧
      exec .poll s = .next (respond .ok 0 0 [] (resync { s with pktValid := false, csum := 0, q := rest }))) ∨
    (s.pstate = .searchingHeader ∧ ∃ d sr ty hi lo rest,
      s.q = sync0 :: sync1 :: d :: sr :: ty :: hi :: lo :: rest ∧
      exec .poll s = pollTrailing { s with
        pktValid := false, csum := addToSum 0 [sync0, sync1, d, sr, ty, hi, lo], dest := d, src := sr, typ := ty,
        plen := bigEndian hi lo, trem := (bigEndian hi lo).setWidth 17 + 1, pstate := .headerValid, q := rest }) ∨
    (s.pstate = .headerValid ∧ exec .poll s = pollTrailing { s with pktValid := false }) := by
  by_cases hp : s.pstate = .searchingHeader
  · by_cases hl : s.q.length < 7
    · exact .inl ⟨hp, hl, exec_poll_notYet hp (detectHeader_short hl)⟩
    · rcases header_shapes s.q (by omega) with ⟨b, rest, hq, h1, h2⟩ | ⟨b, rest, hq, h1, h2⟩ | ⟨d, sr, ty, hi, lo, rest, hq⟩
      · exact .inr (.inl ⟨hp, b, rest, hq, h1, h2, exec_poll_notYet hp (detectHeader_badFirst hq h1 h2)⟩)
      · exact .inr (.inr (.inl ⟨hp, b, rest, hq, h1, h2, exec_poll_notYet hp (detectHeader_badSecond hq h1 h2)⟩))
      · exact .inr (.inr (.inr (.inl ⟨hp, d, sr, ty, hi, lo, rest, hq,
          exec_poll_ready hp (detectHeader_ready hq)⟩)))
  · have hv : s.pstate = .headerValid := by cases h : s.pstate <;> simp_all
    exact .inr (.inr (.inr (.inr ⟨hv, exec_poll_headerValid hv⟩)))

/-! Accessors and parsers, inside and outside the accessor window (R87, R99). -/

theorem exec_getDest_open {s : State} (h : s.pktValid = true) :
    exec .getDest s = .next (respond .ok (zextByte s.dest) 0 [] s) := by
  simp only [exec, execGetDest, h, if_true]

theorem exec_getDest_closed {s : State} (h : s.pktValid = false) : exec .getDest s = .next (raiseNoPacket s) := by
  simp [exec, execGetDest, h]

theorem exec_getSrc_open {s : State} (h : s.pktValid = true) :
    exec .getSrc s = .next (respond .ok (zextByte s.src) 0 [] s) := by
  simp only [exec, execGetSrc, h, if_true]

theorem exec_getSrc_closed {s : State} (h : s.pktValid = false) : exec .getSrc s = .next (raiseNoPacket s) := by
  simp [exec, execGetSrc, h]

theorem exec_getType_open {s : State} (h : s.pktValid = true) :
    exec .getType s = .next (respond .ok (zextByte s.typ) 0 [] s) := by
  simp only [exec, execGetType, h, if_true]

theorem exec_getType_closed {s : State} (h : s.pktValid = false) : exec .getType s = .next (raiseNoPacket s) := by
  simp [exec, execGetType, h]

theorem exec_getLen_open {s : State} (h : s.pktValid = true) :
    exec .getLen s = .next (respond .ok (zextHalf s.plen) 0 [] s) := by
  simp only [exec, execGetLen, h, if_true]

theorem exec_getLen_closed {s : State} (h : s.pktValid = false) : exec .getLen s = .next (raiseNoPacket s) := by
  simp [exec, execGetLen, h]

theorem exec_getPay_inside {s : State} {n : Half} (h : s.pktValid = true) (hn : n.toNat < s.plen.toNat) :
    exec (.getPay n) s = .next (respond .ok (zextByte (s.payload.read n.toNat)) 0 [] s) := by
  simp only [exec, execGetPay, h, if_true, Nat.not_le.2 hn, if_false, payByte]

theorem exec_getPay_beyond {s : State} {n : Half} (h : s.pktValid = true) (hn : s.plen.toNat ≤ n.toNat) :
    exec (.getPay n) s = .next (respondAnyValue .outOfRange 0 s) := by
  simp only [exec, execGetPay, h, if_true, hn]

theorem exec_getPay_closed {s : State} {n : Half} (h : s.pktValid = false) :
    exec (.getPay n) s = .next (raiseNoPacket s) := by
  simp [exec, execGetPay, h]

theorem exec_parseS8_inside {s : State} {n : Half} (h : s.pktValid = true) (hn : n.toNat + 1 ≤ s.plen.toNat) :
    exec (.parseS8 n) s = .next (respond .ok (sextWord (signExtend ((s.payload.read n.toNat).setWidth 16) 8))
      (cursorAfter n 1) [] s) := by
  simp only [exec, execParseS8, h, if_true, Nat.not_lt.2 hn, if_false, payByte]

theorem exec_parseS8_beyond {s : State} {n : Half} (h : s.pktValid = true) (hn : s.plen.toNat < n.toNat + 1) :
    exec (.parseS8 n) s = .next (respondAnyValue .outOfRange (cursorAfter n 1) s) := by
  simp only [exec, execParseS8, h, if_true, hn]

theorem exec_parseS8_closed {s : State} {n : Half} (h : s.pktValid = false) :
    exec (.parseS8 n) s = .next (raise .noPacket s) := by
  simp [exec, execParseS8, h]

theorem exec_parseDup_inside {s : State} {n : Half} (h : s.pktValid = true) (hn : n.toNat + 4 ≤ s.plen.toNat) :
    exec (.parseDup n) s = .next (respond
      (if signExtend (payHalf s n.toNat) 16 = signExtend (payHalf s (n.toNat + 2)) 16 then .ok else .duplexMismatch)
      (sextWord (signExtend (payHalf s n.toNat) 16)) (cursorAfter n 4) [] s) := by
  simp only [exec, execParseDup, h, if_true, Nat.not_lt.2 hn, if_false]

theorem exec_parseDup_beyond {s : State} {n : Half} (h : s.pktValid = true) (hn : s.plen.toNat < n.toNat + 4) :
    exec (.parseDup n) s = .next (respondAnyValue .outOfRange (cursorAfter n 4) s) := by
  simp only [exec, execParseDup, h, if_true, hn]

theorem exec_parseDup_closed {s : State} {n : Half} (h : s.pktValid = false) :
    exec (.parseDup n) s = .next (raise .noPacket s) := by
  simp [exec, execParseDup, h]

theorem exec_sext_legal {s : State} {w : Byte} {n : Half} (h : 1 ≤ w.toNat ∧ w.toNat ≤ 16) :
    exec (.sext w n) s = .next (respond .ok (sextWord (signExtend n w.toNat)) 0 [] s) := by
  simp only [exec, execSext, show ¬ (w.toNat < 1 ∨ 16 < w.toNat) by omega, if_false]

theorem exec_sext_illegal {s : State} {w : Byte} {n : Half} (h : w.toNat < 1 ∨ 16 < w.toNat) :
    exec (.sext w n) s = .next (raise .badOperand s) := by
  simp only [exec, execSext, h, if_true]

/-! The other commands. -/

/-- t is s after one response (and the free values it drew): nothing else differs. -/
def Answered (s t : State) : Prop :=
  ∃ st v a bs k, t = { s with rsp := s.rsp ++ [⟨st, v, a, bs⟩], freeCount := k } ∧
    st ≠ .unknownPacketType ∧ st ≠ .logMessage

theorem Answered.respond {s : State} {st : Status} {v a : Word} {bs : List Byte}
    (h : st ≠ .unknownPacketType ∧ st ≠ .logMessage) : Answered s (respond st v a bs s) :=
  ⟨st, v, a, bs, s.freeCount, rfl, h⟩

theorem Answered.respondAnyValue {s : State} {st : Status} {a : Word}
    (h : st ≠ .unknownPacketType ∧ st ≠ .logMessage) : Answered s (respondAnyValue st a s) :=
  ⟨st, _, _, _, _, rfl, h⟩

theorem Answered.raise {s : State} {st : Status}
    (h : st ≠ .unknownPacketType ∧ st ≠ .logMessage) : Answered s (raise st s) :=
  ⟨st, _, _, _, _, rfl, h⟩

/-- The commands that neither poll nor transmit nor write Scratch answer once and change at most Q, PSTATE and
PKT_VALID: Q loses oldest bytes, gains the appended byte, or is emptied. -/
theorem exec_simple (i : Instr) (s : State) (h1 : i ≠ .poll) (h2 : ∀ d t n, i ≠ .buildHdr d t n)
    (h3 : ∀ d t n, i ≠ .sendText d t n) :
    ∃ t, exec i s = .next t ∧
      (Answered s t ∨ (∃ k, Answered { s with q := s.q.drop k } t) ∨
        (∃ v, i = .append v ∧ Answered (ringAppend v s) t) ∨
        (i = .clear ∧ Answered (teardown s) t)) := by
  have ok : (Status.ok ≠ .unknownPacketType ∧ Status.ok ≠ .logMessage) := by decide
  cases i with
  | append v => exact ⟨_, rfl, .inr (.inr (.inl ⟨v, rfl, .respond ok⟩))⟩
  | retrieve =>
    cases hq : s.q with
    | nil => exact ⟨_, exec_retrieve_nil hq, .inl (.raise (by decide))⟩
    | cons b rest =>
      refine ⟨_, exec_retrieve_cons hq, .inr (.inl ⟨1, ?_⟩)⟩
      exact .respond ok
  | peek =>
    cases hq : s.q with
    | nil => exact ⟨_, exec_peek_nil hq, .inl (.raise (by decide))⟩
    | cons b rest => exact ⟨_, exec_peek_cons hq, .inl (.respond ok)⟩
  | readUpTo n => exact ⟨_, rfl, .inr (.inl ⟨min n.toNat s.q.length, .respond ok⟩)⟩
  | available => exact ⟨_, rfl, .inl (.respond ok)⟩
  | rbReset =>
    refine ⟨_, rfl, .inr (.inl ⟨s.q.length, ?_⟩)⟩
    rw [List.drop_length]; exact .respond ok
  | poll => exact absurd rfl h1
  | getDest =>
    cases h : s.pktValid with
    | true => exact ⟨_, exec_getDest_open h, .inl (.respond ok)⟩
    | false => exact ⟨_, exec_getDest_closed h, .inl (.respondAnyValue (by decide))⟩
  | getSrc =>
    cases h : s.pktValid with
    | true => exact ⟨_, exec_getSrc_open h, .inl (.respond ok)⟩
    | false => exact ⟨_, exec_getSrc_closed h, .inl (.respondAnyValue (by decide))⟩
  | getType =>
    cases h : s.pktValid with
    | true => exact ⟨_, exec_getType_open h, .inl (.respond ok)⟩
    | false => exact ⟨_, exec_getType_closed h, .inl (.respondAnyValue (by decide))⟩
  | getLen =>
    cases h : s.pktValid with
    | true => exact ⟨_, exec_getLen_open h, .inl (.respond ok)⟩
    | false => exact ⟨_, exec_getLen_closed h, .inl (.respondAnyValue (by decide))⟩
  | getPay n =>
    cases h : s.pktValid with
    | true =>
      rcases Nat.lt_or_ge n.toNat s.plen.toNat with hn | hn
      · exact ⟨_, exec_getPay_inside h hn, .inl (.respond ok)⟩
      · exact ⟨_, exec_getPay_beyond h hn, .inl (.respondAnyValue (by decide))⟩
    | false => exact ⟨_, exec_getPay_closed h, .inl (.respondAnyValue (by decide))⟩
  | getResync => exact ⟨_, rfl, .inl (.respond ok)⟩
  | getStat => exact ⟨_, rfl, .inl (.respond ok)⟩
  | clear => exact ⟨_, rfl, .inr (.inr (.inr ⟨rfl, .respond ok⟩))⟩
  | parseS8 n =>
    cases h : s.pktValid with
    | true =>
      rcases Nat.lt_or_ge s.plen.toNat (n.toNat + 1) with hn | hn
      · exact ⟨_, exec_parseS8_beyond h hn, .inl (.respondAnyValue (by decide))⟩
      · exact ⟨_, exec_parseS8_inside h hn, .inl (.respond ok)⟩
    | false => exact ⟨_, exec_parseS8_closed h, .inl (.raise (by decide))⟩
  | parseDup n =>
    cases h : s.pktValid with
    | true =>
      rcases Nat.lt_or_ge s.plen.toNat (n.toNat + 4) with hn | hn
      · exact ⟨_, exec_parseDup_beyond h hn, .inl (.respondAnyValue (by decide))⟩
      · refine ⟨_, exec_parseDup_inside h hn, .inl (.respond ?_)⟩
        split <;> decide
    | false => exact ⟨_, exec_parseDup_closed h, .inl (.raise (by decide))⟩
  | sext w n =>
    by_cases h : w.toNat < 1 ∨ 16 < w.toNat
    · exact ⟨_, exec_sext_illegal h, .inl (.raise (by decide))⟩
    · exact ⟨_, exec_sext_legal (by omega), .inl (.respond ok)⟩
  | buildHdr d t n => exact absurd rfl (h2 d t n)
  | sendText d t n => exact absurd rfl (h3 d t n)

/-- BUILDHDR writes its seven bytes and answers, or does not fit (R104). -/
theorem exec_buildHdr_cases (d t : Byte) (n : Half) (s : State) :
    (7 ≤ s.cfg.scratchCap ∧ exec (.buildHdr d t n) s = .next (respond .ok 7 0 (headerBytes s.cfg d t n)
      { s with scratch := s.scratch.writeFrom 0 (headerBytes s.cfg d t n) })) ∨
    (s.cfg.scratchCap < 7 ∧ exec (.buildHdr d t n) s = .fault .outsideScratch) := by
  by_cases h : 7 ≤ s.cfg.scratchCap
  · exact .inl ⟨h, by simp only [exec, execBuildHdr, writeScratch_fits (show (headerBytes s.cfg d t n).length ≤ _ from h)]⟩
  · refine .inr ⟨by omega, ?_⟩
    have h7 : s.cfg.scratchCap < (headerBytes s.cfg d t n).length := by rw [headerBytes_length]; omega
    simp only [exec, execBuildHdr, writeScratch_overflow h7]

/-! Steps. -/

theorem step_powerOn {s : State} {rest : List Event} (h : s.inputs = .powerOn :: rest) :
    step s = .next (powerOn { s with inputs := rest }) := by
  simp only [step, h]

theorem step_command {s : State} {w : CmdWord} {rest : List Event} (h : s.inputs = .command w :: rest)
    (hs : s.sending = none) : step s = runCommand w { s with inputs := rest } := by
  cases s; dsimp only at h hs; subst h hs; rfl

theorem step_rx {s : State} {b : Byte} {rest : List Event} (h : s.inputs = .rx b :: rest)
    (hs : s.sending = none) : step s = .next (takeRx b { s with inputs := rest }) := by
  cases s; dsimp only at h hs; subst h hs; rfl

theorem step_clear {s : State} {rest : List Event} (h : s.inputs = .clear :: rest)
    (hs : s.sending = none) : step s = .next (takeClear { s with inputs := rest }) := by
  cases s; dsimp only at h hs; subst h hs; rfl

theorem step_idle {s : State} (h : s.inputs = []) (hs : s.sending = none) : step s = .next s := by
  simp [step, h, hs]

theorem step_sending {s : State} {p : Sending} (hs : s.sending = some p)
    (h : ∀ rest, s.inputs ≠ .powerOn :: rest) : step s = resumeSend p s := by
  cases hi : s.inputs with
  | nil => simp [step, hi, hs]
  | cons e rest =>
    cases e with
    | powerOn => exact absurd hi (h rest)
    | command w => simp [step, hi, hs]
    | rx b => simp [step, hi, hs]
    | clear => simp [step, hi, hs]

theorem runCommand_ok {w : CmdWord} {i : Instr} (h : decode w = .ok i) (s : State) : runCommand w s = exec i s := by
  simp [runCommand, h]

theorem runCommand_error {w : CmdWord} {e : DecodeError} (h : decode w = .error e) (s : State) :
    runCommand w s = .next (illegalCommand s) := by
  simp [runCommand, h]

/-- Everything a step can be: a power-on reset, the continuation of a SENDTEXT, waiting, a command, an illegal
command, an RX byte, or a `clear` pulse. -/
theorem step_cases (s : State) :
    (∃ rest, s.inputs = .powerOn :: rest ∧ step s = .next (powerOn { s with inputs := rest })) ∨
    (∃ p, s.sending = some p ∧ (∀ rest, s.inputs ≠ .powerOn :: rest) ∧ step s = resumeSend p s) ∨
    (s.sending = none ∧ s.inputs = [] ∧ step s = .next s) ∨
    (s.sending = none ∧ ∃ w rest i, s.inputs = .command w :: rest ∧ decode w = .ok i ∧
      step s = exec i { s with inputs := rest }) ∨
    (s.sending = none ∧ ∃ w rest e, s.inputs = .command w :: rest ∧ decode w = .error e ∧
      step s = .next (illegalCommand { s with inputs := rest })) ∨
    (s.sending = none ∧ ∃ b rest, s.inputs = .rx b :: rest ∧ step s = .next (takeRx b { s with inputs := rest })) ∨
    (s.sending = none ∧ ∃ rest, s.inputs = .clear :: rest ∧ step s = .next (takeClear { s with inputs := rest })) := by
  by_cases hp : ∃ rest, s.inputs = .powerOn :: rest
  · obtain ⟨rest, h⟩ := hp
    exact .inl ⟨rest, h, step_powerOn h⟩
  cases hs : s.sending with
  | some p => exact .inr (.inl ⟨p, rfl, fun rest h => hp ⟨rest, h⟩, step_sending hs fun rest h => hp ⟨rest, h⟩⟩)
  | none =>
    cases hi : s.inputs with
    | nil => exact .inr (.inr (.inl ⟨rfl, rfl, step_idle hi hs⟩))
    | cons e rest =>
      cases e with
      | powerOn => exact absurd ⟨rest, hi⟩ hp
      | command w =>
        cases hd : decode w with
        | ok i =>
          refine .inr (.inr (.inr (.inl ⟨rfl, w, rest, i, rfl, hd, ?_⟩)))
          rw [step_command hi hs, runCommand_ok hd, hs]
        | error e =>
          refine .inr (.inr (.inr (.inr (.inl ⟨rfl, w, rest, e, rfl, hd, ?_⟩))))
          rw [step_command hi hs, runCommand_error hd, hs]
      | rx b =>
        refine .inr (.inr (.inr (.inr (.inr (.inl ⟨rfl, b, rest, rfl, ?_⟩)))))
        rw [step_rx hi hs, hs]
      | clear =>
        refine .inr (.inr (.inr (.inr (.inr (.inr ⟨rfl, rest, rfl, ?_⟩)))))
        rw [step_clear hi hs, hs]

end Sys2Proof.Machine
end

