-- ==== Sys2Proof/Laws/Frames.lean ====
section
/-! SUPPORT. What each meaning leaves alone (R108: the two paths share no state), once; runs of steps and of commands. -/

namespace Sys2Proof.Machine

/-- POLL's trailing part leaves the ports and the outbound state. -/
theorem pollTrailing_keeps {s t : State} (h : pollTrailing s = .next t) :
    t.inputs = s.inputs ∧ SameOutbound s t ∧ t.cfg = s.cfg := by
  rcases pollTrailing_cases s with ⟨_, h2⟩ | ⟨_, p, c, rest, _, _, h2⟩ | ⟨_, _, h2⟩ <;> rw [h2] at h <;> cases h <;>
    exact ⟨rfl, ⟨rfl, rfl, rfl, rfl, rfl⟩, rfl⟩

/-- POLL leaves the ports and the outbound state. -/
theorem poll_keeps {s t : State} (h : exec .poll s = .next t) :
    t.inputs = s.inputs ∧ SameOutbound s t ∧ t.cfg = s.cfg := by
  rcases exec_poll_cases s with ⟨_, _, h2⟩ | ⟨_, b, rest, _, _, _, h2⟩ | ⟨_, b, rest, _, _, _, h2⟩ |
    ⟨_, d, sr, ty, hi, lo, rest, _, h2⟩ | ⟨_, h2⟩ <;> rw [h2] at h
  · cases h; exact ⟨rfl, ⟨rfl, rfl, rfl, rfl, rfl⟩, rfl⟩
  · cases h; exact ⟨rfl, ⟨rfl, rfl, rfl, rfl, rfl⟩, rfl⟩
  · cases h; exact ⟨rfl, ⟨rfl, rfl, rfl, rfl, rfl⟩, rfl⟩
  · obtain ⟨h1, ho, h3⟩ := pollTrailing_keeps h
    exact ⟨h1, ⟨ho.1, ho.2, ho.3, ho.4, ho.5⟩, h3⟩
  · obtain ⟨h1, ho, h3⟩ := pollTrailing_keeps h
    exact ⟨h1, ⟨ho.1, ho.2, ho.3, ho.4, ho.5⟩, h3⟩

/-- Transmission leaves the events and the receive-side state. -/
theorem transmit_keeps (f : List Byte) (k : Nat) (s : State) :
    (transmit f k s).inputs = s.inputs ∧ SameReceive s (transmit f k s) ∧ (transmit f k s).cfg = s.cfg := by
  obtain ⟨out, as, k', _, h | h | h⟩ := transmit_cases f k s <;> rw [h.2] <;>
    exact ⟨rfl, ⟨rfl, rfl, rfl, rfl, rfl, rfl, rfl, rfl, rfl, rfl, rfl, rfl⟩, rfl⟩

/-- SENDTEXT leaves the events and the receive-side state. -/
theorem collectText_keeps {d ty : Byte} {n : Half} {taken : List Byte} {s t : State}
    (h : collectText d ty n taken s = .next t) : t.inputs = s.inputs ∧ SameReceive s t ∧ t.cfg = s.cfg := by
  rcases collectText_cases d ty n taken s with ⟨_, h2⟩ | ⟨_, _, h2⟩ | ⟨_, _, h2⟩ <;> rw [h2] at h <;> cases h
  · exact ⟨rfl, ⟨rfl, rfl, rfl, rfl, rfl, rfl, rfl, rfl, rfl, rfl, rfl, rfl⟩, rfl⟩
  · obtain ⟨h1, r, h3⟩ := transmit_keeps (textFrame s.cfg d ty (taken ++ s.text.take (n.toNat - taken.length))) 0 { s with
      text := s.text.drop (n.toNat - taken.length),
      scratch := s.scratch.writeFrom 0 (textFrame s.cfg d ty (taken ++ s.text.take (n.toNat - taken.length))) }
    exact ⟨h1, ⟨r.1, r.2, r.3, r.4, r.5, r.6, r.7, r.8, r.9, r.10, r.11, r.12⟩, h3⟩

/-- So does its continuation. -/
theorem resumeSend_keeps {p : Sending} {s t : State} (h : resumeSend p s = .next t) :
    t.inputs = s.inputs ∧ SameReceive s t ∧ t.cfg = s.cfg := by
  cases p with
  | awaitText d ty n taken => exact collectText_keeps h
  | transmit f k => cases h; exact transmit_keeps f k s

/-- BUILDHDR leaves the events and the receive-side state. -/
theorem buildHdr_keeps {d ty : Byte} {n : Half} {s t : State} (h : exec (.buildHdr d ty n) s = .next t) :
    t.inputs = s.inputs ∧ SameReceive s t ∧ t.cfg = s.cfg := by
  rcases exec_buildHdr_cases d ty n s with ⟨_, h2⟩ | ⟨_, h2⟩ <;> rw [h2] at h <;> cases h
  exact ⟨rfl, ⟨rfl, rfl, rfl, rfl, rfl, rfl, rfl, rfl, rfl, rfl, rfl, rfl⟩, rfl⟩

theorem Answered.keeps {s t : State} (h : Answered s t) : t.inputs = s.inputs ∧ SameOutbound s t ∧ t.cfg = s.cfg := by
  obtain ⟨_, _, _, _, _, rfl, _⟩ := h; exact ⟨rfl, ⟨rfl, rfl, rfl, rfl, rfl⟩, rfl⟩

/-- The other commands leave the events and the outbound state. -/
theorem exec_simple_keeps {i : Instr} {s t : State} (h1 : i ≠ .poll) (h2 : ∀ d t n, i ≠ .buildHdr d t n)
    (h3 : ∀ d t n, i ≠ .sendText d t n) (h : exec i s = .next t) :
    t.inputs = s.inputs ∧ SameOutbound s t ∧ t.cfg = s.cfg := by
  obtain ⟨t', h', hc⟩ := exec_simple i s h1 h2 h3
  rw [h] at h'; cases h'
  rcases hc with h | ⟨k, h⟩ | ⟨v, _, h⟩ | ⟨_, h⟩ <;> obtain ⟨a, b, c⟩ := h.keeps <;>
    exact ⟨a, ⟨b.1, b.2, b.3, b.4, b.5⟩, c⟩

/-- Every command is POLL, BUILDHDR, SENDTEXT or one of the others. -/
theorem instr_shapes (i : Instr) :
    i = .poll ∨ (∃ d ty n, i = .buildHdr d ty n) ∨ (∃ d ty n, i = .sendText d ty n) ∨
      (i ≠ .poll ∧ (∀ d t n, i ≠ .buildHdr d t n) ∧ ∀ d t n, i ≠ .sendText d t n) := by
  cases i <;> simp

/-- No command takes an event or changes a parameter. -/
theorem exec_keeps_inputs {i : Instr} {s t : State} (h : exec i s = .next t) :
    t.inputs = s.inputs ∧ t.cfg = s.cfg := by
  rcases instr_shapes i with rfl | ⟨d, ty, n, rfl⟩ | ⟨d, ty, n, rfl⟩ | ⟨h1, h2, h3⟩
  · exact ⟨(poll_keeps h).1, (poll_keeps h).2.2⟩
  · exact ⟨(buildHdr_keeps h).1, (buildHdr_keeps h).2.2⟩
  · exact ⟨(collectText_keeps h).1, (collectText_keeps h).2.2⟩
  · exact ⟨(exec_simple_keeps h1 h2 h3 h).1, (exec_simple_keeps h1 h2 h3 h).2.2⟩

/-! Runs. -/

theorem execAll_append (as bs : List Instr) (s : State) :
    execAll (as ++ bs) s = match execAll as s with
      | .next t => execAll bs t
      | .fault r => .fault r
      | .refused r => .refused r := by
  induction as generalizing s with
  | nil => rfl
  | cons a as ih =>
    simp only [List.cons_append, execAll]
    cases exec a s <;> simp [ih]

/-- A run of k + 1 steps is a step and a run of k. -/
theorem run_next {s t : State} (h : step s = .next t) (k : Nat) :
    Sys2Proof.core.run (k + 1) s = Sys2Proof.core.run k t := by
  have h' : Sys2Proof.core.step s = .next t := h
  simp only [Host.Core.run]; rw [h']

/-- At most one command is next. -/
theorem takesCommand_unique {i j : Instr} {s : State} (h1 : TakesCommand i s) (h2 : TakesCommand j s) : i = j := by
  obtain ⟨w, r, h, _, hd⟩ := h1
  obtain ⟨w', r', h', _, hd'⟩ := h2
  rw [h] at h'; cases h'; rw [hd] at hd'; cases hd'; rfl

end Sys2Proof.Machine
end

