-- ==== Sys2Proof/Laws/PerInstr.lean ====
section
/-! SUPPORT. Per command: its encoded word has the opcode of R64 in bits 39:32 and zero in the fields R64 leaves unused. -/

namespace Sys2Proof.Laws.EncodedFields

/-- The fields of a command's word (R61, R63, R64). -/
def Statement (i : Instr) : Prop := opField (encode i) = opcode i ∧ unusedFieldsZero (encode i) = true

theorem append (v : Byte) : Statement (.append v) := by
  simp [Statement, encode, opcode, unusedFieldsZero, usesA, usesB, usesN,
    opField_packWord, aField_packWord, bField_packWord, nField_packWord]

theorem retrieve : Statement .retrieve := by
  simp [Statement, encode, opcode, unusedFieldsZero, usesA, usesB, usesN,
    opField_packWord, aField_packWord, bField_packWord, nField_packWord]

theorem peek : Statement .peek := by
  simp [Statement, encode, opcode, unusedFieldsZero, usesA, usesB, usesN,
    opField_packWord, aField_packWord, bField_packWord, nField_packWord]

theorem readUpTo (n : Half) : Statement (.readUpTo n) := by
  simp [Statement, encode, opcode, unusedFieldsZero, usesA, usesB, usesN,
    opField_packWord, aField_packWord, bField_packWord, nField_packWord]

theorem available : Statement .available := by
  simp [Statement, encode, opcode, unusedFieldsZero, usesA, usesB, usesN,
    opField_packWord, aField_packWord, bField_packWord, nField_packWord]

theorem rbReset : Statement .rbReset := by
  simp [Statement, encode, opcode, unusedFieldsZero, usesA, usesB, usesN,
    opField_packWord, aField_packWord, bField_packWord, nField_packWord]

theorem poll : Statement .poll := by
  simp [Statement, encode, opcode, unusedFieldsZero, usesA, usesB, usesN,
    opField_packWord, aField_packWord, bField_packWord, nField_packWord]

theorem getDest : Statement .getDest := by
  simp [Statement, encode, opcode, unusedFieldsZero, usesA, usesB, usesN,
    opField_packWord, aField_packWord, bField_packWord, nField_packWord]

theorem getSrc : Statement .getSrc := by
  simp [Statement, encode, opcode, unusedFieldsZero, usesA, usesB, usesN,
    opField_packWord, aField_packWord, bField_packWord, nField_packWord]

theorem getType : Statement .getType := by
  simp [Statement, encode, opcode, unusedFieldsZero, usesA, usesB, usesN,
    opField_packWord, aField_packWord, bField_packWord, nField_packWord]

theorem getLen : Statement .getLen := by
  simp [Statement, encode, opcode, unusedFieldsZero, usesA, usesB, usesN,
    opField_packWord, aField_packWord, bField_packWord, nField_packWord]

theorem getPay (n : Half) : Statement (.getPay n) := by
  simp [Statement, encode, opcode, unusedFieldsZero, usesA, usesB, usesN,
    opField_packWord, aField_packWord, bField_packWord, nField_packWord]

theorem getResync : Statement .getResync := by
  simp [Statement, encode, opcode, unusedFieldsZero, usesA, usesB, usesN,
    opField_packWord, aField_packWord, bField_packWord, nField_packWord]

theorem getStat : Statement .getStat := by
  simp [Statement, encode, opcode, unusedFieldsZero, usesA, usesB, usesN,
    opField_packWord, aField_packWord, bField_packWord, nField_packWord]

theorem clear : Statement .clear := by
  simp [Statement, encode, opcode, unusedFieldsZero, usesA, usesB, usesN,
    opField_packWord, aField_packWord, bField_packWord, nField_packWord]

theorem parseS8 (n : Half) : Statement (.parseS8 n) := by
  simp [Statement, encode, opcode, unusedFieldsZero, usesA, usesB, usesN,
    opField_packWord, aField_packWord, bField_packWord, nField_packWord]

theorem parseDup (n : Half) : Statement (.parseDup n) := by
  simp [Statement, encode, opcode, unusedFieldsZero, usesA, usesB, usesN,
    opField_packWord, aField_packWord, bField_packWord, nField_packWord]

theorem sext (w : Byte) (n : Half) : Statement (.sext w n) := by
  simp [Statement, encode, opcode, unusedFieldsZero, usesA, usesB, usesN,
    opField_packWord, aField_packWord, bField_packWord, nField_packWord]

theorem buildHdr (d : Byte) (t : Byte) (n : Half) : Statement (.buildHdr d t n) := by
  simp [Statement, encode, opcode, unusedFieldsZero, usesA, usesB, usesN,
    opField_packWord, aField_packWord, bField_packWord, nField_packWord]

theorem sendText (d : Byte) (t : Byte) (n : Half) : Statement (.sendText d t n) := by
  simp [Statement, encode, opcode, unusedFieldsZero, usesA, usesB, usesN,
    opField_packWord, aField_packWord, bField_packWord, nField_packWord]

end Sys2Proof.Laws.EncodedFields
end

