-- ==== Sys2Proof/Tests/Slice0.lean ====
section
/-! SUPPORT. Tests: words and results from spec/95_test_vectors.md (its row named in each comment) and R64's table, the
checks of WellFormed, and a state that meets the hypotheses of each statement that has some. -/

open Sys2Proof Sys2Proof.Machine

namespace Sys2Proof.Tests

/-! ## Helpers -/

/-- Power-on with these bytes in Q. -/
def withQ (bytes : List Byte) : State := { State.reset with q := bytes }

/-- Power-on with this ring capacity and these bytes in Q. -/
def ring (cap : Nat) (bytes : List Byte) : State :=
  { State.resetWith { Config.default with rbCap := cap } with q := bytes }

/-- An accepted packet with this payload. -/
def packet (bytes : List Byte) : State :=
  { State.reset with
    src := 2, typ := 2, plen := BitVec.ofNat 16 bytes.length, payload := Memory.writeFrom [] 0 bytes, pktValid := true }

/-- Power-on with text bytes, transport answers and this SCRATCH_CAP. -/
def outbound (cap : Nat) (text : List Byte) (sink : List SinkAnswer) : State :=
  { State.resetWith { Config.default with scratchCap := cap } with text := text, sink := sink }

/-- The state after, if there is one. -/
def after : Host.Outcome State Fault Refusal → Option State
  | .next s => some s
  | .fault _ => none
  | .refused _ => none

/-- The last response delivered. -/
def answer (o : Host.Outcome State Fault Refusal) : Option Response := (after o).bind fun s => s.rsp.getLast?

/-- The last response's status. -/
def status (o : Host.Outcome State Fault Refusal) : Option Status := (answer o).map (·.status)

/-- The payload of 95_test_vectors.md 2.4. -/
def parsePayload : List Byte := [0x80, 0x7F, 0xFF, 0x80, 0x00, 0x80, 0x00, 0xFF, 0xFF, 0x7F, 0xFF]

/-! ## WellFormed: each check refuses an ill-formed term -/

theorem test_config_default : Config.default.valid = true := by decide
theorem test_config_no_ring : ({ Config.default with rbCap := 0 } : Config).valid = false := by decide
theorem test_config_ring_too_big : ({ Config.default with rbCap := 2 ^ 32 } : Config).valid = false := by decide
theorem test_config_scratch_too_small : ({ Config.default with scratchCap := 8 } : Config).valid = false := by decide
theorem test_config_scratch_too_big : ({ Config.default with scratchCap := 65544 } : Config).valid = false := by decide
theorem test_line_bare_sendText : (Line.command (.sendText 2 3 2)).wellFormed = false := by decide
theorem test_line_text_too_long : (Line.sendText 2 3 (List.replicate 65536 0)).wellFormed = false := by
  simp only [Line.wellFormed, List.length_replicate]; decide
theorem test_unused_A : unusedFieldsZero 0x1101000000 = false := by decide
theorem test_unused_B : unusedFieldsZero 0x1003010000 = false := by decide
theorem test_unused_N : unusedFieldsZero 0x1003000001 = false := by decide

/-! ## Decode: a word per command, from R64's table; the illegal words of 2.6 -/

theorem test_decode_append : decode 0x1003000000 = .ok (.append 3) := by decide
theorem test_decode_retrieve : decode 0x1100000000 = .ok .retrieve := by decide
theorem test_decode_peek : decode 0x1200000000 = .ok .peek := by decide
theorem test_decode_readUpTo : decode 0x1300000005 = .ok (.readUpTo 5) := by decide
theorem test_decode_available : decode 0x1400000000 = .ok .available := by decide
theorem test_decode_rbReset : decode 0x1500000000 = .ok .rbReset := by decide
theorem test_decode_poll : decode 0x2000000000 = .ok .poll := by decide
theorem test_decode_getDest : decode 0x2100000000 = .ok .getDest := by decide
theorem test_decode_getSrc : decode 0x2200000000 = .ok .getSrc := by decide
theorem test_decode_getType : decode 0x2300000000 = .ok .getType := by decide
theorem test_decode_getLen : decode 0x2400000000 = .ok .getLen := by decide
theorem test_decode_getPay : decode 0x250000FFFF = .ok (.getPay 65535) := by decide
theorem test_decode_getResync : decode 0x2600000000 = .ok .getResync := by decide
theorem test_decode_getStat : decode 0x2700000000 = .ok .getStat := by decide
theorem test_decode_clear : decode 0x2800000000 = .ok .clear := by decide
theorem test_decode_parseS8 : decode 0x300000000B = .ok (.parseS8 11) := by decide
theorem test_decode_parseDup : decode 0x3100000007 = .ok (.parseDup 7) := by decide
theorem test_decode_sext : decode 0x320C00F7FF = .ok (.sext 12 0xF7FF) := by decide
theorem test_decode_buildHdr : decode 0x40FF101234 = .ok (.buildHdr 255 16 0x1234) := by decide
theorem test_decode_sendText : decode 0x4102030002 = .ok (.sendText 2 3 2) := by decide
theorem test_decode_illegal : [0x0000000000, 0x0FFFFFFFFF, 0x1600000000, 0x1F00000000, 0x2900000000, 0x2F00000000,
    0x3300000000, 0x3F00000000, 0x42AABBCCDD, 0xFFFFFFFFFF].all
      (fun w => decide (decode w = .error (.illegalOpcode (opField w)))) = true := by decide
/-- 2.7: a field the command does not use is ignored. -/
theorem test_decode_unused_fields : decode 0x11FFFFFFFF = .ok .retrieve ∧ decode 0x2012345678 = .ok .poll := by decide
theorem test_decodeTableWord : decodeTableWord 40 0x3208001234 = some (.sext 8 0x1234) := by decide

/-! ## Steps -/

/-- The word placed for the next step is run by it. -/
theorem test_withFetchWord : status (step (State.reset.withFetchWord 40 0x1003000000)) = some .ok := by decide
/-- 2.6: an illegal word is answered and takes no text byte. -/
theorem test_step_illegal : status (step { outbound 65543 [1] [] with inputs := [.command 0x42AABBCCDD] }) =
    some .illegalCommand ∧
    (after (step { outbound 65543 [1] [] with inputs := [.command 0x42AABBCCDD] })).map (·.text) = some [1] := by decide
/-- R30. -/
theorem test_step_rx : after (step { ring 2 [1, 2] with inputs := [.rx 3] }) = some (ring 2 [2, 3]) := by decide
/-- P3: teardown. -/
theorem test_step_clear : after (step { withQ [1, 2] with inputs := [.clear], pstate := .headerValid }) =
    some State.reset := by decide
/-- R135: an RX byte waits while SENDTEXT does. -/
theorem test_step_held_off :
    (after (step { State.reset with inputs := [.rx 3], sending := some (.transmit [0xAA] 0) })).map (·.inputs) =
      some [.rx 3] := by decide

/-! ## Ring Buffer (2.1) -/

/-- V-RB-1. -/
theorem test_append_full : (after (exec (.append 3) (ring 2 [1, 2]))).map (·.q) = some [2, 3] := by decide
/-- V-RB-2. -/
theorem test_append_one_cell : (after (exec (.append 8) (ring 1 [7]))).map (·.q) = some [8] := by decide
/-- V-RB-3. -/
theorem test_retrieve : answer (exec .retrieve (withQ [0xAA, 0x55])) = some ⟨.ok, 170, 0, []⟩ ∧
    (after (exec .retrieve (withQ [0xAA, 0x55]))).map (·.q) = some [0x55] := by decide
/-- V-RB-4. -/
theorem test_retrieve_empty : status (exec .retrieve State.reset) = some .emptyBuffer := by decide
/-- S4. -/
theorem test_peek : answer (exec .peek (withQ [0xAA, 0x55])) = some ⟨.ok, 170, 0, []⟩ ∧
    (after (exec .peek (withQ [0xAA, 0x55]))).map (·.q) = some [0xAA, 0x55] := by decide
/-- V-RB-5. -/
theorem test_peek_empty : status (exec .peek State.reset) = some .emptyBuffer := by decide
/-- V-RB-7. -/
theorem test_readUpTo : answer (exec (.readUpTo 2) (withQ [1, 2, 3])) = some ⟨.ok, 2, 0, [1, 2]⟩ ∧
    (after (exec (.readUpTo 2) (withQ [1, 2, 3]))).map (·.q) = some [3] := by decide
/-- V-RB-9. -/
theorem test_readUpTo_empty : answer (exec (.readUpTo 5) State.reset) = some ⟨.ok, 0, 0, []⟩ := by decide
/-- V-RB-10. -/
theorem test_available : answer (exec .available (ring 4 [3, 4, 5, 6])) = some ⟨.ok, 4, 0, []⟩ := by decide
/-- V-RB-11. -/
theorem test_rbReset : (after (exec .rbReset { withQ [1, 2] with pstate := .headerValid })).map
    (fun s => (s.q, s.pstate)) = some ([], .headerValid) := by decide

/-! ## Framing (2.2, 2.3) -/

/-- V-FR-2. -/
theorem test_poll_accepts : (after (exec .poll (withQ [0xAA, 0x55, 0, 2, 2, 0, 0, 0xFD]))).map
    (fun s => (s.q, s.pktValid, s.src, s.csum, s.chkByte)) = some ([], true, 2, 0, 0xFD) := by decide
/-- V-FR-9. -/
theorem test_poll_bad_second : (after (exec .poll (withQ [0xAA, 0x13, 0xAA, 0x55, 0, 2, 2, 0, 0, 0xFD]))).map
    (fun s => (s.q, s.resyncCnt)) = some ([0xAA, 0x55, 0, 2, 2, 0, 0, 0xFD], 1) := by decide
theorem test_getDest : answer (exec .getDest (packet [])) = some ⟨.ok, 0, 0, []⟩ := by decide
/-- 2.3, from power-on: `NoPacket * 0`. -/
theorem test_getDest_closed :
    (answer (exec .getDest State.reset)).map (fun r => (r.status, r.aux, r.bytes)) = some (.noPacket, 0, []) := by decide
theorem test_getSrc : answer (exec .getSrc (packet [])) = some ⟨.ok, 2, 0, []⟩ := by decide
theorem test_getType : answer (exec .getType (packet [])) = some ⟨.ok, 2, 0, []⟩ := by decide
theorem test_getLen : answer (exec .getLen (packet [0, 0x64, 0, 0x65])) = some ⟨.ok, 4, 0, []⟩ := by decide
theorem test_getPay : answer (exec (.getPay 1) (packet [0, 0x64, 0, 0x65])) = some ⟨.ok, 100, 0, []⟩ := by decide
theorem test_getPay_beyond : status (exec (.getPay 4) (packet [0, 0x64, 0, 0x65])) = some .outOfRange := by decide
theorem test_getResync : answer (exec .getResync { State.reset with resyncCnt := 1 }) = some ⟨.ok, 1, 0, []⟩ := by decide
theorem test_getStat : answer (exec .getStat (packet [])) = some ⟨.ok, 2, 0, []⟩ := by decide
/-- V-FR-10. -/
theorem test_getStat_header : answer (exec .getStat { State.reset with pstate := .headerValid }) =
    some ⟨.ok, 1, 0, []⟩ := by decide
/-- V-FR-12. -/
theorem test_clear : (after (exec .clear { withQ [1, 2] with pstate := .headerValid, resyncCnt := 2 })).map
    (fun s => (s.q, s.pstate, s.resyncCnt)) = some ([], .searchingHeader, 2) := by decide

/-! ## Field parsers (2.4) -/

/-- V-FP-1. -/
theorem test_parseS8 : answer (exec (.parseS8 0) (packet parsePayload)) = some ⟨.ok, 0xFFFFFF80, 1, []⟩ := by decide
/-- V-FP-8. -/
theorem test_parseS8_beyond : (answer (exec (.parseS8 65535) (packet parsePayload))).map
    (fun r => (r.status, r.aux)) = some (.outOfRange, 65536) := by decide
/-- V-FP-4. -/
theorem test_parseDup : answer (exec (.parseDup 3) (packet parsePayload)) = some ⟨.ok, 0xFFFF8000, 7, []⟩ := by decide
/-- V-FP-5. -/
theorem test_parseDup_mismatch : answer (exec (.parseDup 7) (packet parsePayload)) =
    some ⟨.duplexMismatch, 0xFFFFFFFF, 11, []⟩ := by decide
/-- V-SX-9, V-SX-10. -/
theorem test_sext : answer (exec (.sext 12 0x0800) State.reset) = some ⟨.ok, 0xFFFFF800, 0, []⟩ ∧
    answer (exec (.sext 12 0xF7FF) State.reset) = some ⟨.ok, 0x000007FF, 0, []⟩ := by decide
/-- V-SX-11, V-SX-12. -/
theorem test_sext_bad_width : status (exec (.sext 0 5) State.reset) = some .badOperand ∧
    status (exec (.sext 17 5) State.reset) = some .badOperand := by decide

/-! ## Outbound (2.5) -/

/-- V-OUT-2. -/
theorem test_buildHdr : answer (exec (.buildHdr 255 16 0x1234) State.reset) =
    some ⟨.ok, 7, 0, [0xAA, 0x55, 0xFF, 0x00, 0x10, 0x12, 0x34]⟩ := by decide
/-- V-OUT-4. -/
theorem test_sendText_truncates :
    (after (exec (.sendText 2 3 5) (outbound 12 [0x48, 0x45, 0x4C, 0x4C, 0x4F] (List.replicate 12 .take)))).map
      (fun s => (s.txOut, s.text)) =
      some ([0xAA, 0x55, 0x02, 0x00, 0x03, 0x00, 0x04, 0x48, 0x45, 0x4C, 0x00, 0x1F], []) := by decide
/-- V-OUT-9. -/
theorem test_sendText_broken :
    answer (exec (.sendText 2 3 2) (outbound 65543 [0x4F, 0x4B] [.take, .take, .take, .broken])) =
      some ⟨.transportBroken, 11, 3, []⟩ := by decide

/-! ## The assembler (R69, R70) -/

theorem test_parse_append : parseLine "APPEND 0xAA".toList = some [.command (.append 0xAA)] := by decide
theorem test_parse_sext : parseLine "SEXT 8, 0xFF ; raw".toList = some [.command (.sext 8 0xFF)] := by decide
theorem test_parse_sendText : parseLine "SENDTEXT 2, 3, \"OK\"".toList = some [.sendText 2 3 [0x4F, 0x4B]] := by decide
theorem test_parse_sendText_bytes : parseLine "SENDTEXT 1, 3, [61 00 62]".toList =
    some [.sendText 1 3 [0x61, 0, 0x62]] := by decide
theorem test_parse_feed : parseLine "FEED 01 02".toList = some [.feed [1, 2]] := by decide
theorem test_parse_too_wide : parseLine "APPEND 256".toList = none := by decide

/-! ## Witnesses: for each statement with hypotheses, a concrete state and operands that meet them, one per clause -/

/-- HeaderValid in a ring of 8 cells with a declared length of 8: TREM = 9 (V-FR-14). -/
def heldState : State :=
  { ring 8 [0, 1] with pstate := .headerValid, src := 2, typ := 2, plen := 8, trem := 9, csum := 0x0B }

/-- HeaderValid with TREM = 2 and both trailing bytes of the frame AA 55 00 02 02 00 01 00 FC in Q. -/
def readyState : State :=
  { withQ [0x00, 0xFC, 0x07] with pstate := .headerValid, src := 2, typ := 2, plen := 1, trem := 2, csum := 0x04 }

/-- A SENDTEXT whose transport has taken one of two bytes and has no further answer. -/
def stalledState : State :=
  { State.reset with
    sending := some (.transmit [0xFF, 0x01] 1), scratch := [(0, 0xFF), (1, 0x01)], txOut := [0xFF], inputs := [.rx 3] }

/-- The invariant of a state with an empty ring, no packet and no SENDTEXT. -/
theorem inv_of_idle (s : State) (h : PowerOnState s) : Inv s where
  config := h.config
  occupancy := by rw [h.ring]; exact Nat.zero_le _
  payload := h.payload
  scratch := h.scratch
  header := fun hp => absurd (h.parser.symm.trans hp) (by decide)
  window := fun hv => absurd (h.closed.symm.trans hv) (by decide)
  accepted := fun hv => absurd (h.closed.symm.trans hv) (by decide)
  awaiting := fun _ _ _ _ hs => absurd (h.idle.symm.trans hs) (by simp)
  transmitting := fun _ _ hs => absurd (h.idle.symm.trans hs) (by simp)

theorem powerOn_with (c : Config) (h : c.valid = true) : PowerOnState (State.resetWith c) :=
  ⟨h, rfl, rfl, rfl, rfl, ⟨rfl, rfl⟩, ⟨rfl, rfl⟩, rfl⟩

theorem inv_heldState : Inv heldState where
  config := by decide
  occupancy := by decide
  payload := ⟨rfl, rfl⟩
  scratch := ⟨rfl, rfl⟩
  header := fun _ => by decide
  window := fun hv => absurd hv (by decide)
  accepted := fun hv => absurd hv (by decide)
  awaiting := fun _ _ _ _ hs => absurd hs (by simp [heldState, ring, State.resetWith])
  transmitting := fun _ _ hs => absurd hs (by simp [heldState, ring, State.resetWith])

theorem witness_DecodedWordIsCanonicalIffUnusedFieldsZero :
    decode 0x1100000000 = .ok .retrieve ∧ decode 0x11FFFFFFFF = .ok .retrieve := by decide

theorem witness_UnusedFieldsAreIgnored :
    let v : CmdWord := 0x1003000000
    let w : CmdWord := 0x1003FFFFFF
    v ≠ w ∧ opField v = opField w ∧ (usesA (opField w) = true → aField v = aField w) ∧
      (usesB (opField w) = true → bField v = bField w) ∧ (usesN (opField w) = true → nField v = nField w) := by decide

theorem witness_LinesStandForTheirCommands :
    (Line.sendText 2 3 [0x4F, 0x4B]).wellFormed = true ∧
      (Line.sendText 2 3 (List.replicate 65535 0)).wellFormed = true := by
  refine ⟨by decide, ?_⟩
  simp only [Line.wellFormed, List.length_replicate]; decide

theorem witness_StepRunsDecodedCommand :
    let s : State := { State.reset with inputs := [.command 0x4102030002] }
    s.inputs = .command 0x4102030002 :: [] ∧ s.sending = none ∧ decode 0x4102030002 = .ok (.sendText 2 3 2) := by decide

/-- Both ends of each range of R65. -/
theorem witness_IllegalCommandOnlyAnswers :
    { State.reset with inputs := [.command 0x42AABBCCDD] }.inputs = .command 0x42AABBCCDD :: [] ∧
      State.reset.sending = none ∧
    ∀ op ∈ [0x00, 0x0F, 0x16, 0x1F, 0x29, 0x2F, 0x33, 0x3F, 0x42, 0xFF],
      op ≤ 0x0F ∨ (0x16 ≤ op ∧ op ≤ 0x1F) ∨ (0x29 ≤ op ∧ op ≤ 0x2F) ∨ (0x33 ≤ op ∧ op ≤ 0x3F) ∨ 0x42 ≤ op := by
  decide

theorem witness_PowerOnResetSetsWhatIsStated :
    { stalledState with inputs := [.powerOn, .rx 1] }.inputs = .powerOn :: [.rx 1] := by decide

theorem witness_StepTakesEventsInOrder :
    step { State.reset with inputs := [.rx 3, .clear] } = .next { withQ [3] with inputs := [.clear] } ∧
      State.reset.inputs = [] ∧ State.reset.sending = none := ⟨rfl, rfl, rfl⟩

theorem witness_PortsAreHeldOffWhileSending :
    stalledState.sending = some (.transmit [0xFF, 0x01] 1) ∧ (∀ rest, stalledState.inputs ≠ .powerOn :: rest) ∧
      step stalledState = .next stalledState := ⟨rfl, by simp [stalledState], rfl⟩

theorem witness_AppendDropsOldestWhenFull :
    let s : State := { ring 2 [1, 2] with inputs := [.rx 3] }
    s.q.length = s.cfg.rbCap ∧ s.sending = none ∧ s.inputs = .rx 3 :: [] := by decide

theorem witness_RetrieveReturnsOldest : (withQ [0xAA, 0x55]).q = 0xAA :: [0x55] ∧ State.reset.q = [] := by decide

theorem witness_PeekReturnsOldestAndKeepsIt : (withQ [0xAA]).q = 0xAA :: [] ∧ State.reset.q = [] := by decide

/-- A full ring, at the smallest capacity. -/
theorem witness_AvailableReturnsOccupancy :
    (ring 1 [7]).cfg.valid = true ∧ (ring 1 [7]).q.length ≤ (ring 1 [7]).cfg.rbCap := by decide

theorem witness_OverrunKeepsMostRecentBytes :
    (ring 3 []).cfg.valid = true ∧ (ring 3 []).q = [] ∧ (ring 3 []).cfg.rbCap < [1, 2, 3, (4 : Byte)].length := by decide

theorem witness_RingIsFirstInFirstOut :
    step { ring 2 [1, 2] with inputs := [.rx 3] } = .next (ring 2 [2, 3]) := rfl

theorem witness_PollNeedsSevenBytes :
    (withQ [0xAA, 0x55, 0, 2, 2, 0]).pstate = .searchingHeader ∧ (withQ [0xAA, 0x55, 0, 2, 2, 0]).q.length < 7 := by decide

/-- A bad first byte, and a bad second byte, each in exactly 7 bytes. -/
theorem witness_PollResyncsToNextSyncByte :
    (withQ [1, 0xAA, 3, 4, 5, 6, 7]).pstate = .searchingHeader ∧
      ((withQ [1, 0xAA, 3, 4, 5, 6, 7]).q = 1 :: [0xAA, 3, 4, 5, 6, 7] ∧ 6 ≤ [0xAA, 3, 4, 5, 6, (7 : Byte)].length ∧
        (1 : Byte) ≠ 0xAA) ∧
      ((withQ [0xAA, 0xAA, 3, 4, 5, 6, 7]).q = 0xAA :: 0xAA :: [3, 4, 5, 6, 7] ∧ 5 ≤ [3, 4, 5, 6, (7 : Byte)].length ∧
        (0xAA : Byte) ≠ 0x55) := by decide

/-- One trailing byte too few. -/
theorem witness_PollTakesHeaderAndWaits :
    let s := withQ [0xAA, 0x55, 0, 2, 2, 0, 3, 1, 2, 3]
    s.pstate = .searchingHeader ∧ s.q = 0xAA :: 0x55 :: 0 :: 2 :: 2 :: 0 :: 3 :: [1, 2, 3] ∧
      [1, 2, (3 : Byte)].length < 256 * (0 : Byte).toNat + (3 : Byte).toNat + 1 := by decide

/-- The frame of V-FR-2, accepted, and the same for another device, rejected. -/
theorem witness_PollCompletesWholeFrame :
    let s := withQ [0xAA, 0x55, 0, 2, 2, 0, 0, 0xFD]
    s.pstate = .searchingHeader ∧ s.payload.wf = true ∧
      ([] : List Byte).length = 256 * (0 : Byte).toNat + (0 : Byte).toNat ∧
      s.q = [0xAA, 0x55, 0, 2, 2, 0, 0] ++ [] ++ 0xFD :: [] ∧
      (answer (exec .poll s)).map (·.value) = some 1 ∧
      (answer (exec .poll { s with cfg := { s.cfg with myId := 1 } })).map (·.value) = some 0 := by decide

theorem witness_PollWaitsForTrailingBytes :
    heldState.pstate = .headerValid ∧ heldState.q.length < heldState.trem.toNat := by decide

theorem witness_PollCompletesHeldFrame :
    readyState.pstate = .headerValid ∧ readyState.payload.wf = true ∧
      readyState.trem.toNat = readyState.plen.toNat + 1 ∧ [(0 : Byte)].length = readyState.plen.toNat ∧
      readyState.q = [0x00] ++ 0xFC :: [0x07] ∧ (answer (exec .poll readyState)).map (·.value) = some 1 := by decide

theorem witness_ParserStateChangesOnlyAsTabulated :
    let s : State := { withQ [0xAA, 0x55, 0, 2, 2, 0, 3] with inputs := [.command 0x2000000000] }
    s.pstate = .searchingHeader ∧ (after (step s)).map (·.pstate) = some .headerValid := by decide

theorem witness_ResyncCounterCountsResyncsOnly :
    let s : State := { withQ [1, 2, 3, 4, 5, 6, 7] with inputs := [.command 0x2000000000], resyncCnt := 0xFFFFFFFF }
    (after (step s)).map (·.resyncCnt) = some 0 := by decide

/-- An accepting POLL, a teardown, and an APPEND that keeps the window open. -/
theorem witness_PacketWindowOpensAndCloses :
    TakesCommand .poll { withQ [0xAA, 0x55, 0, 2, 2, 0, 0, 0xFD] with inputs := [.command 0x2000000000] } ∧
    (after (step { withQ [0xAA, 0x55, 0, 2, 2, 0, 0, 0xFD] with inputs := [.command 0x2000000000] })).map
      (·.pktValid) = some true ∧
    TakesCommand .clear { packet [] with inputs := [.command 0x2800000000] } ∧
    (after (step { packet [] with inputs := [.command 0x2800000000] })).map (·.pktValid) = some false ∧
    ¬ TakesCommand .poll { packet [] with inputs := [.command 0x1003000000] } ∧
    (after (step { packet [] with inputs := [.command 0x1003000000] })).map (·.pktValid) = some true := by
  refine ⟨⟨_, _, rfl, rfl, by decide⟩, by decide, ⟨_, _, rfl, rfl, by decide⟩, by decide, ?_, by decide⟩
  rintro ⟨w, rest, h, -, hd⟩
  cases h; exact absurd hd (by decide)

/-- A ring that just holds the frame; a payload of two bytes. -/
theorem witness_AppendedFrameIsAccepted :
    let s := ring 10 []
    s.q = [] ∧ s.pstate = .searchingHeader ∧ s.payload.wf = true ∧ [0x68, (0x69 : Byte)].length ≤ 65535 ∧
      [0x68, (0x69 : Byte)].length + 8 ≤ s.cfg.rbCap := by decide

/-- A ring that just holds an empty frame. -/
theorem witness_FrameFedByteByByteIsAccepted :
    let s := ring 8 []
    s.q = [] ∧ s.pstate = .searchingHeader ∧ s.payload.wf = true ∧ ([] : List Byte).length ≤ 65535 ∧
      ([] : List Byte).length + 8 ≤ s.cfg.rbCap := by decide

/-- V-FR-4: the checksum byte, offset 7, changed by -1; and the first and last of the offsets 2, 3, 4. -/
theorem witness_OneByteCorruptionIsRejected :
    let f := wireFrame State.reset.cfg.myId 2 2 []
    ∀ x ∈ [(2, (1 : Byte)), (3, 3), (4, 3), (7, 0xFC)],
      let s := withQ (f.set x.1 x.2 ++ [9])
      s.pstate = .searchingHeader ∧ ([] : List Byte).length ≤ 65535 ∧ (x.1 = 2 ∨ x.1 = 3 ∨ x.1 = 4 ∨ 7 ≤ x.1) ∧
        (∀ h : x.1 < f.length, x.2 ≠ f[x.1]) ∧ x.1 < f.length ∧ s.q = f.set x.1 x.2 ++ [9] := by decide

theorem witness_PollRecoversAfterGarbage :
    let s := withQ ([0x11, 0x55] ++ wireFrame 0 2 2 [] ++ [9])
    s.pstate = .searchingHeader ∧ s.payload.wf = true ∧ ([] : List Byte).length ≤ 65535 ∧ [0x11, (0x55 : Byte)] ≠ [] ∧
      (∀ x ∈ [0x11, (0x55 : Byte)], x ≠ 0xAA) ∧ s.q = [0x11, 0x55] ++ wireFrame s.cfg.myId 2 2 [] ++ [9] := by decide

/-- TREM = RB_CAP + 1, with an RBRESET to come. -/
theorem witness_OverlongHeaderIsHeldUntilClear :
    let s : State := { heldState with inputs := [.command 0x1500000000, .rx 3] }
    Inv s ∧ s.pstate = .headerValid ∧ s.cfg.rbCap < s.trem.toNat ∧ (∀ e ∈ s.inputs, releases e = false) ∧
      Sys2Proof.core.run 0 s = .next s :=
  ⟨⟨inv_heldState.1, inv_heldState.2, inv_heldState.3, inv_heldState.4, inv_heldState.5, inv_heldState.6,
    inv_heldState.7, inv_heldState.8, inv_heldState.9⟩, rfl, by decide, by decide, rfl⟩

theorem witness_SmallRingNeverDetects :
    Inv (ring 6 []) ∧ (ring 6 []).cfg.rbCap < 7 ∧ (ring 6 []).pstate = .searchingHeader ∧
      Sys2Proof.core.run 0 (ring 6 []) = .next (ring 6 []) :=
  ⟨inv_of_idle _ (powerOn_with _ (by decide)), by decide, rfl, rfl⟩

theorem witness_AccessorsReturnPacketFields : (packet [1]).pktValid = true := by decide

theorem witness_AccessorsAnswerNoPacketOutsideWindow :
    State.reset.pktValid = false ∧ ∀ i ∈ [Instr.getDest, .getSrc, .getType, .getLen, .getPay 0],
      i = .getDest ∨ i = .getSrc ∨ i = .getType ∨ i = .getLen ∨ ∃ n, i = .getPay n := by
  refine ⟨rfl, ?_⟩
  intro i hi
  simp only [List.mem_cons, List.not_mem_nil, or_false] at hi
  rcases hi with h | h | h | h | h <;> simp [h]

/-- The last index below PLEN and the first that is not. -/
theorem witness_GetPayReturnsPayloadByte :
    (packet [1, 2]).pktValid = true ∧ (1 : Half).toNat < (packet [1, 2]).plen.toNat ∧
      (packet [1, 2]).plen.toNat ≤ (2 : Half).toNat := by decide

theorem witness_GetStatReturnsStateAndWindow : Inv heldState := inv_heldState

theorem witness_ClearDiscardsPartialFrame :
    let s : State := { heldState with inputs := [.clear] }
    s.sending = none ∧ s.inputs = .clear :: [] := by decide

/-- The last cursor inside the payload, the first beyond it, and a closed window. -/
theorem witness_ParseS8ReturnsSignedByte :
    State.reset.pktValid = false ∧ (packet [1, 2]).pktValid = true ∧
      (1 : Half).toNat + 1 ≤ (packet [1, 2]).plen.toNat ∧ (packet [1, 2]).plen.toNat < (2 : Half).toNat + 1 := by decide

/-- The last cursor with four bytes, the first without, and a closed window. -/
theorem witness_ParseDupReturnsPrimaryAndComparesCopies :
    State.reset.pktValid = false ∧ (packet [0, 1, 0, 1]).pktValid = true ∧
      (0 : Half).toNat + 4 ≤ (packet [0, 1, 0, 1]).plen.toNat ∧
      (packet [0, 1, 0, 1]).plen.toNat < (1 : Half).toNat + 4 := by decide

/-- Widths 1 and 16, 0 and 17. -/
theorem witness_SextReinterpretsLowBits :
    (1 ≤ (1 : Byte).toNat ∧ (1 : Byte).toNat ≤ 16) ∧ (1 ≤ (16 : Byte).toNat ∧ (16 : Byte).toNat ≤ 16) ∧
      (0 : Byte).toNat < 1 ∧ 16 < (17 : Byte).toNat := by decide

theorem witness_BuildHdrWritesAndEchoesHeader :
    (outbound 9 [] []).cfg.valid = true ∧ (outbound 9 [] []).scratch.wf = true := by decide

/-- Text at and above what SCRATCH_CAP = 12 keeps. -/
theorem witness_SendTextSendsWholeFrame :
    let s := outbound 12 [0x48, 0x45, 0x4C, 0x4C, 0x4F] (List.replicate 12 .take)
    s.cfg.valid = true ∧ s.scratch.wf = true ∧ (3 : Half).toNat ≤ s.text.length ∧ (5 : Half).toNat ≤ s.text.length ∧
      (wireFrame 2 s.cfg.myId 3 (textPayload s 3)).length = 12 ∧
      (wireFrame 2 s.cfg.myId 3 (textPayload s 5)).length = 12 ∧ s.sink = List.replicate 12 .take ++ [] :=
  ⟨by decide, rfl, by decide, by decide, rfl, rfl, rfl⟩

/-- Broken at once, and after the last byte but one. -/
theorem witness_SendTextReportsBrokenTransport :
    let s := fun k => outbound 12 [0x48, 0x45, 0x4C, 0x4C, 0x4F] (List.replicate k .take ++ [.broken])
    (s 0).cfg.valid = true ∧ (s 0).scratch.wf = true ∧ (5 : Half).toNat ≤ (s 0).text.length ∧
      (wireFrame 2 (s 0).cfg.myId 3 (textPayload (s 0) 5)).length = 12 ∧
      (wireFrame 2 (s 11).cfg.myId 3 (textPayload (s 11) 5)).length = 12 ∧
      (s 0).sink = List.replicate 0 .take ++ .broken :: [] ∧ (s 11).sink = List.replicate 11 .take ++ .broken :: [] :=
  ⟨by decide, rfl, by decide, rfl, rfl, rfl, rfl⟩

/-- One text byte missing; and all there, with a transport that stalls at once or before the last byte. -/
theorem witness_SendTextWaitsForTextAndTransport :
    let s := fun k => outbound 12 [0x48] (List.replicate k .take)
    (s 0).cfg.valid = true ∧ (s 0).scratch.wf = true ∧ (s 0).text.length < (2 : Half).toNat ∧
      (1 : Half).toNat ≤ (s 0).text.length ∧ (wireFrame 2 (s 0).cfg.myId 3 (textPayload (s 0) 1)).length = 10 ∧
      (s 0).sink = List.replicate 0 .take ∧ (s 9).sink = List.replicate 9 .take :=
  ⟨by decide, rfl, by decide, by decide, rfl, rfl, rfl⟩

/-- A SENDTEXT in progress; one that waits for text, and one that waits for the transport. -/
theorem witness_WaitingSendTextResumesUnchanged :
    (stalledState.sending = some (.transmit [0xFF, 0x01] 1) ∧ ∀ rest, stalledState.inputs ≠ .powerOn :: rest) ∧
    (∃ u p, exec (.sendText 2 3 2) (outbound 12 [0x48] []) = .next u ∧ u.sending = some p) ∧
      ∃ u p, exec (.sendText 2 3 1) (outbound 12 [0x48] [.take]) = .next u ∧ u.sending = some p :=
  ⟨⟨rfl, by simp [stalledState]⟩, ⟨_, _, rfl, rfl⟩, _, _, rfl, rfl⟩

/-- V-OUT-3 cut in two: the missing text byte and the answers come after SENDTEXT began; the next step sends the frame. -/
theorem test_step_resumes_sendText :
    let s := { outbound 65543 [0x4B] (List.replicate 11 .take) with sending := some (.awaitText 2 3 2 [0x4F]) }
    (after (step s)).map (fun t => (t.sending, t.txOut)) =
      some (none, [0xAA, 0x55, 2, 0, 3, 0, 3, 0x4F, 0x4B, 0, 0x5F]) := by decide

theorem witness_StalledSendStallsForEver :
    stalledState.sending = some (.transmit [0xFF, 0x01] 1) ∧ 1 < [0xFF, (0x01 : Byte)].length ∧ stalledState.sink = [] ∧
      ∀ rest, stalledState.inputs ≠ .powerOn :: rest := ⟨rfl, by decide, rfl, by simp [stalledState]⟩

/-- P4: the sender's id is 0, the receiver's 2. -/
theorem witness_SentFrameIsAcceptedByItsDestination :
    let s := outbound 12 [0x48, 0x45, 0x4C, 0x4C, 0x4F] (List.replicate 12 .take)
    let f := wireFrame 2 s.cfg.myId 3 (textPayload s 5)
    let r : State := { State.resetWith { Config.default with myId := 2 } with q := f ++ [7] }
    s.cfg.valid = true ∧ (5 : Half).toNat ≤ s.text.length ∧ r.pstate = .searchingHeader ∧ r.payload.wf = true ∧
      f = wireFrame r.cfg.myId s.cfg.myId 3 (textPayload s 5) ∧ s.sink = List.replicate f.length .take ∧
      r.q = f ++ [7] := by decide

theorem witness_InboundAndOutboundAreSeparate :
    (∃ t, exec (.buildHdr 2 3 5) State.reset = .next t) ∧ (∃ t, exec (.sendText 2 3 0) State.reset = .next t) ∧
      ∃ t, exec .poll (withQ [1, 2, 3, 4, 5, 6, 7]) = .next t := ⟨⟨_, rfl⟩, ⟨_, rfl⟩, _, rfl⟩

/-- A command that answers, and a SENDTEXT that ends. -/
theorem witness_OneResponsePerCommand :
    (∃ t, step { State.reset with inputs := [.command 0x2700000000] } = .next t) ∧
      ∃ t, step { stalledState with sink := [.take] } = .next t ∧ t.sending = none := ⟨⟨_, rfl⟩, _, rfl, rfl⟩

theorem witness_ParametersNeverChange : ∃ t, step { State.reset with inputs := [.powerOn] } = .next t := ⟨_, rfl⟩

/-- Registers at values R38 allows, other than State.reset's. -/
theorem powerOn_other : PowerOnState { State.reset with dest := 7, plen := 3, csum := 9, payload := [(1, 5)], scratch := [(0, 1)] } :=
  ⟨by decide, rfl, rfl, rfl, rfl, ⟨by decide, by decide⟩, ⟨by decide, by decide⟩, rfl⟩

theorem witness_InvariantHoldsAfterPowerOn : PowerOnState State.reset ∧ Config.default.valid = true :=
  ⟨powerOn_with _ (by decide), by decide⟩

theorem witness_StepKeepsInvariant : Inv heldState ∧ ∃ t, step heldState = .next t := ⟨inv_heldState, _, rfl⟩

theorem witness_PowerOnValuesAreNeverObserved :
    let t : State :=
      { State.reset with dest := 7, plen := 3, csum := 9, payload := [(1, 5)], scratch := [(0, 1)] }
    PowerOnState State.reset ∧ PowerOnState t ∧ State.reset ≠ t ∧ State.reset.cfg = t.cfg ∧
      State.reset.inputs = t.inputs ∧ State.reset.text = t.text ∧ State.reset.sink = t.sink ∧
      State.reset.rsp = t.rsp ∧ State.reset.txOut = t.txOut ∧ State.reset.freeCount = t.freeCount :=
  ⟨powerOn_with _ (by decide), powerOn_other, by decide, rfl, rfl, rfl, rfl, rfl, rfl, rfl⟩

/-- R66's table, the codes in its order without the reserved ones. -/
theorem test_status_codes :
    [Status.ok, .emptyBuffer, .duplexMismatch, .transportBroken, .unknownPacketType, .logMessage, .noPacket, .outOfRange,
      .badOperand, .illegalCommand].map (fun st => st.code.toNat) = [0, 1, 2, 3, 4, 5, 6, 7, 8, 0xF] := by decide

/-- Two accepted packets that differ in CHKBYTE and above PLEN. -/
theorem witness_StepKeepsAgreement :
    let s := packet [1]
    let t : State := { packet [1] with chkByte := 9, payload := [(0, 1), (1, 5)] }
    s.payload.wf = true ∧ t.payload.wf = true ∧ s ≠ t ∧ Agree s t := by
  refine ⟨by decide, by decide, by decide, rfl, rfl, rfl, rfl, rfl, rfl, rfl, rfl, rfl, rfl, rfl, rfl, ?_, ?_⟩
  · intro h; exact absurd h (by decide)
  · intro _
    refine ⟨rfl, rfl, rfl, rfl, fun j hj => ?_⟩
    have : j < 1 := hj
    obtain rfl : j = 0 := by omega
    rfl

end Sys2Proof.Tests
end

/-! PROOFS of the family 00_scope: the invariant and its step lemma, runs from power-on, the responses of a step, the
parameters, and the command a step runs.

The invariant is cut along R108: a receive-side part that only the receive-side fields decide, an outbound part that
only the outbound fields decide, and the parameters. So what leaves one side alone keeps that side's part by one lemma
(`ReceiveInv.of_same`, `OutboundInv.of_same`), and only the operations of a side are looked at for its part. -/

namespace Sys2Proof.Machine

/-! ## The parameters -/

/-- R6's ranges as the proofs use them: a ring of at least one byte, a Scratch of at least a frame with no text. -/
theorem valid_bounds {c : Config} (h : c.valid = true) : 1 ≤ c.rbCap ∧ 9 ≤ c.scratchCap := by
  simp only [Config.valid, Bool.and_eq_true, decide_eq_true_eq] at h
  omega

theorem step_keeps_cfg {s t : State} (h : step s = .next t) : t.cfg = s.cfg := by
  rcases step_cases s with ⟨rest, -, hst⟩ | ⟨p, -, -, hst⟩ | ⟨-, -, hst⟩ | ⟨-, w, rest, i, -, -, hst⟩ |
    ⟨-, w, rest, e, -, -, hst⟩ | ⟨-, b, rest, -, hst⟩ | ⟨-, rest, -, hst⟩ <;> rw [hst] at h
  case inr.inl => exact (resumeSend_keeps h).2.2
  case inr.inr.inr.inl => exact (exec_keeps_inputs h).2
  all_goals cases h; rfl

/-! ## The two halves of the invariant -/

/-- The clauses of `Inv` about the ring, the parser and the accessor window. -/
structure ReceiveInv (s : State) : Prop where
  occupancy : s.q.length ≤ s.cfg.rbCap
  payload : s.payload.wf = true ∧ s.payload.within 65535 = true
  header : s.pstate = .headerValid →
    s.trem.toNat = s.plen.toNat + 1 ∧ s.csum.toNat = byteTotal (headerOf s) % 256
  window : s.pktValid = true → s.pstate = .searchingHeader
  accepted : s.pktValid = true → s.dest = s.cfg.myId ∧ s.csum = 0 ∧ byteTotal (frameOf s) % 256 = 0

/-- The frame stands in Scratch, fits there and sums to 0 mod 256 (R59, R105). -/
def Staged (frame : List Byte) (s : State) : Prop :=
  frame.length ≤ s.cfg.scratchCap ∧ byteTotal frame % 256 = 0 ∧
    ∀ j (h : j < frame.length), s.scratch.read j = frame[j]

/-- The clauses of `Inv` about Scratch and the SENDTEXT in progress. -/
structure OutboundInv (s : State) : Prop where
  scratch : s.scratch.wf = true ∧ s.scratch.within s.cfg.scratchCap = true
  awaiting : ∀ d t n taken, s.sending = some (.awaitText d t n taken) → taken.length < n.toNat
  transmitting : ∀ frame sent, s.sending = some (.transmit frame sent) → sent < frame.length ∧ Staged frame s

theorem inv_iff (s : State) : Inv s ↔ s.cfg.valid = true ∧ ReceiveInv s ∧ OutboundInv s where
  mp h := ⟨h.config, ⟨h.occupancy, h.payload, h.header, h.window, h.accepted⟩, ⟨h.scratch, h.awaiting, h.transmitting⟩⟩
  mpr := fun ⟨hc, hr, ho⟩ =>
    ⟨hc, hr.occupancy, hr.payload, ho.scratch, hr.header, hr.window, hr.accepted, ho.awaiting, ho.transmitting⟩

theorem ReceiveInv.of_same {s t : State} (h : ReceiveInv s) (hs : SameReceive s t) (hc : t.cfg = s.cfg) :
    ReceiveInv t := by
  have hh : headerOf t = headerOf s := by simp only [headerOf, hs.dest, hs.src, hs.typ, hs.plen]
  have hf : frameOf t = frameOf s := by simp only [frameOf, payloadBytes, hh, hs.payload, hs.plen, hs.chkByte]
  refine ⟨?_, ?_, ?_, ?_, ?_⟩
  · rw [hs.q, hc]; exact h.occupancy
  · rw [hs.payload]; exact h.payload
  · rw [hs.pstate, hs.trem, hs.plen, hs.csum, hh]; exact h.header
  · rw [hs.pktValid, hs.pstate]; exact h.window
  · rw [hs.pktValid, hs.dest, hs.csum, hf, hc]; exact h.accepted

theorem OutboundInv.of_same {s t : State} (h : OutboundInv s) (hs : SameOutbound s t) (hc : t.cfg = s.cfg) :
    OutboundInv t := by
  refine ⟨?_, ?_, ?_⟩
  · rw [hs.scratch, hc]; exact h.scratch
  · rw [hs.sending]; exact h.awaiting
  · rw [hs.sending]; simp only [Staged, hs.scratch, hc]; exact h.transmitting

/-- With no SENDTEXT in progress only Scratch itself is constrained. -/
theorem OutboundInv.of_idle {s : State} (hi : s.sending = none)
    (h : s.scratch.wf = true ∧ s.scratch.within s.cfg.scratchCap = true) : OutboundInv s :=
  ⟨h, by simp [hi], by simp [hi]⟩

/-- In SearchingHeader with the window closed only the ring's occupancy and Payload are constrained. -/
theorem ReceiveInv.of_searching {s : State} (hp : s.pstate = .searchingHeader) (hv : s.pktValid = false)
    (hq : s.q.length ≤ s.cfg.rbCap) (hm : s.payload.wf = true ∧ s.payload.within 65535 = true) : ReceiveInv s :=
  ⟨hq, hm, by simp [hp], by simp [hv], by simp [hv]⟩

/-- The invariant holds in every power-on state (R38). -/
theorem PowerOnState.inv {s : State} (h : PowerOnState s) : Inv s := by
  refine (inv_iff s).2 ⟨h.config, .of_searching h.parser h.closed ?_ h.payload, .of_idle h.idle h.scratch⟩
  simp [h.ring]

theorem State.resetWith_powerOnState {c : Config} (h : c.valid = true) : PowerOnState (State.resetWith c) :=
  ⟨h, rfl, rfl, rfl, rfl, ⟨rfl, rfl⟩, ⟨rfl, rfl⟩, rfl⟩

/-- A power-on reset during a run gives a power-on state (R121). -/
theorem powerOn_powerOnState {s : State} (h : s.cfg.valid = true) : PowerOnState (powerOn s) where
  config := h
  ring := rfl
  parser := rfl
  closed := rfl
  counter := rfl
  payload := ⟨Memory.wf_writeFrom rfl _ _, Memory.within_writeFrom (by simp) rfl⟩
  scratch := ⟨Memory.wf_writeFrom rfl _ _, Memory.within_writeFrom (by simp) rfl⟩
  idle := rfl

/-! ## The receive side keeps its part -/

/-- What follows a first part of the ring fits as the whole does. -/
theorem ReceiveInv.rest_fits {s : State} (h : ReceiveInv s) {pre rest : List Byte} (hq : s.q = pre ++ rest) :
    rest.length ≤ s.cfg.rbCap := by
  have hocc := h.occupancy
  rw [hq, List.length_append] at hocc
  omega

/-- The ring's bytes are free but for their number. -/
theorem ReceiveInv.with_q {s : State} (h : ReceiveInv s) {l : List Byte} (hl : l.length ≤ s.cfg.rbCap) :
    ReceiveInv { s with q := l } := ⟨hl, h.payload, h.header, h.window, h.accepted⟩

/-- An append never overfills the ring, because a full ring loses its oldest byte first (R40, R41). -/
theorem ReceiveInv.ringAppend {s : State} (h : ReceiveInv s) (hc : 1 ≤ s.cfg.rbCap) (b : Byte) :
    ReceiveInv (ringAppend b s) := by
  have hq := h.occupancy
  refine h.with_q ?_
  rw [List.length_append, List.length_singleton]
  split
  · rw [List.length_drop]; omega
  · omega

theorem ReceiveInv.teardown {s : State} (h : ReceiveInv s) : ReceiveInv (teardown s) :=
  .of_searching rfl rfl (Nat.zero_le _) h.payload

/-- POLL's closing of the window keeps the receive side's part. -/
theorem ReceiveInv.close {s : State} (h : ReceiveInv s) : ReceiveInv { s with pktValid := false } :=
  ⟨h.occupancy, h.payload, h.header, nofun, nofun⟩

/-- A response is no receive-side state. -/
theorem sameReceive_respond (st : Status) (v a : Word) (bs : List Byte) (s : State) :
    SameReceive s (respond st v a bs s) := ⟨rfl, rfl, rfl, rfl, rfl, rfl, rfl, rfl, rfl, rfl, rfl, rfl⟩

theorem ReceiveInv.respond {s : State} (h : ReceiveInv s) (st : Status) (v a : Word) (bs : List Byte) :
    ReceiveInv (respond st v a bs s) := h.of_same (sameReceive_respond st v a bs s) rfl

theorem ReceiveInv.answered {s t : State} (h : ReceiveInv s) (ha : Answered s t) : ReceiveInv t := by
  obtain ⟨st, v, a, bs, k, rfl, -⟩ := ha
  exact h.of_same ⟨rfl, rfl, rfl, rfl, rfl, rfl, rfl, rfl, rfl, rfl, rfl, rfl⟩ rfl

/-- A POLL that meets a bad sync byte stays searching, and its resync only discards bytes (R81, R82). -/
theorem ReceiveInv.resync {s : State} (h : ReceiveInv s) (hp : s.pstate = .searchingHeader) {rest : List Byte}
    (hl : rest.length ≤ s.cfg.rbCap) : ReceiveInv (resync { s with pktValid := false, csum := 0, q := rest }) :=
  .of_searching hp rfl ((List.length_dropWhile_le (· != sync0) rest).trans hl) h.payload

/-- The payload bytes after writing exactly that many from index 0 are the bytes written. -/
theorem Memory.map_read_writeFrom {m : Memory} (hm : m.wf = true) (p : List Byte) :
    (List.range p.length).map (m.writeFrom 0 p).read = p := by
  refine List.ext_getElem (by simp) fun j _ hj => ?_
  rw [List.getElem_map, List.getElem_range, Memory.read_writeFrom_zero hm, dif_pos hj]

/-- CSUM runs on from the header over the trailing bytes, so it is 0 exactly if the whole frame sums to 0 mod 256
(R22, R59, R84). -/
theorem accepts_frame_total {s : State} {p : List Byte} {c : Byte}
    (hs : s.csum.toNat = byteTotal (headerOf s) % 256) (h0 : addToSum s.csum (p ++ [c]) = 0) :
    byteTotal (headerOf s ++ p ++ [c]) % 256 = 0 := by
  rw [addToSum_eq_zero_iff, hs] at h0
  simp only [byteTotal_append] at h0 ⊢
  omega

/-- A frame completed from a header with the invariant: an open window has an accepted frame (R80, R84). -/
theorem ReceiveInv.complete {s : State} (h : ReceiveInv s) (hp : s.pstate = .headerValid) {p : List Byte} {c : Byte}
    {rest : List Byte} (hq : s.q = p ++ c :: rest) (hlen : p.length = s.plen.toNat) :
    ReceiveInv (finishFrame { s with
      payload := s.payload.writeFrom 0 p, chkByte := c, csum := addToSum s.csum (p ++ [c]), q := rest }) := by
  obtain ⟨hwf, hin⟩ := h.payload
  have hplen := s.plen.isLt
  refine ⟨?_, ⟨Memory.wf_writeFrom hwf 0 p, Memory.within_writeFrom (by omega) hin⟩, nofun, fun _ => rfl, fun hv => ?_⟩
  · exact h.rest_fits (pre := p ++ [c]) (by simpa using hq)
  · simp only [finishFrame_pktValid, accepts, Bool.and_eq_true, beq_iff_eq] at hv
    obtain ⟨hd, h0⟩ := hv
    refine ⟨hd, h0, ?_⟩
    simp only [frameOf, payloadBytes, headerOf, finishFrame_dest, finishFrame_src, finishFrame_typ, finishFrame_plen,
      finishFrame_payload, finishFrame_chkByte]
    rw [← hlen, Memory.map_read_writeFrom hwf]
    exact accepts_frame_total (h.header hp).2 h0

theorem pollTrailing_keeps_receiveInv {s t : State} (h : ReceiveInv s) (hp : s.pstate = .headerValid)
    (ht : pollTrailing s = .next t) : ReceiveInv t := by
  rcases pollTrailing_cases s with ⟨-, hw⟩ | ⟨-, p, c, rest, hq, hlen, hw⟩ | ⟨-, -, hw⟩ <;> rw [hw] at ht <;> cases ht
  · exact h.respond ..
  · exact h.complete hp hq hlen

/-- The header just read (R81): TREM is PLEN + 1 and CSUM the sum of its seven bytes. -/
theorem ReceiveInv.headerRead {s : State} (h : ReceiveInv s) {d sr ty hi lo : Byte} {rest : List Byte}
    (hl : rest.length ≤ s.cfg.rbCap) :
    ReceiveInv { s with
      pktValid := false, csum := addToSum 0 [sync0, sync1, d, sr, ty, hi, lo], dest := d, src := sr, typ := ty,
      plen := bigEndian hi lo, trem := (bigEndian hi lo).setWidth 17 + 1, pstate := .headerValid, q := rest } := by
  refine ⟨hl, h.payload, fun _ => ⟨trem_toNat _, ?_⟩, nofun, nofun⟩
  simp [addToSum_toNat, headerOf]

theorem poll_keeps_receiveInv {s t : State} (h : ReceiveInv s) (ht : exec .poll s = .next t) : ReceiveInv t := by
  rcases exec_poll_cases s with ⟨-, -, hw⟩ | ⟨hp, b, rest, hq, -, -, hw⟩ | ⟨hp, b, rest, hq, -, -, hw⟩ |
    ⟨-, d, sr, ty, hi, lo, rest, hq, hw⟩ | ⟨hp, hw⟩ <;> rw [hw] at ht
  case inr.inr.inr.inl =>
    exact pollTrailing_keeps_receiveInv (h.headerRead (h.rest_fits (pre := [sync0, sync1, d, sr, ty, hi, lo]) hq)) rfl ht
  case inr.inr.inr.inr => exact pollTrailing_keeps_receiveInv h.close hp ht
  all_goals cases ht
  · exact h.close.respond ..
  · exact (h.resync hp (h.rest_fits (pre := [b]) hq)).respond ..
  · exact (h.resync hp (h.rest_fits (pre := [sync0, b]) hq)).respond ..

/-- Every command keeps the receive side's part; the outbound commands do not touch it (R108). -/
theorem exec_keeps_receiveInv {i : Instr} {s t : State} (hc : 1 ≤ s.cfg.rbCap) (h : ReceiveInv s)
    (ht : exec i s = .next t) : ReceiveInv t := by
  rcases instr_shapes i with rfl | ⟨d, ty, n, rfl⟩ | ⟨d, ty, n, rfl⟩ | ⟨h1, h2, h3⟩
  · exact poll_keeps_receiveInv h ht
  · obtain ⟨-, hs, hcfg⟩ := buildHdr_keeps ht
    exact h.of_same hs hcfg
  · obtain ⟨-, hs, hcfg⟩ := collectText_keeps ht
    exact h.of_same hs hcfg
  · obtain ⟨t', ht', ha⟩ := exec_simple i s h1 h2 h3
    rw [ht] at ht'; cases ht'
    rcases ha with ha | ⟨k, ha⟩ | ⟨v, -, ha⟩ | ⟨-, ha⟩
    · exact h.answered ha
    · refine (h.with_q ?_).answered ha
      exact (List.drop_sublist k s.q).length_le.trans h.occupancy
    · exact (h.ringAppend hc v).answered ha
    · exact h.teardown.answered ha

/-! ## The outbound side keeps its part -/

/-- Writing what fits keeps Scratch canonical and within its size. -/
theorem OutboundInv.scratch_writeFrom {s : State} (h : OutboundInv s) {bs : List Byte}
    (hl : bs.length ≤ s.cfg.scratchCap) :
    (s.scratch.writeFrom 0 bs).wf = true ∧ (s.scratch.writeFrom 0 bs).within s.cfg.scratchCap = true :=
  ⟨Memory.wf_writeFrom h.scratch.1 0 bs, Memory.within_writeFrom (by omega) h.scratch.2⟩

/-- Transmitting a staged frame leaves it staged, and waits only with a byte left (R106). -/
theorem transmit_outboundInv {frame : List Byte} {s : State}
    (hm : s.scratch.wf = true ∧ s.scratch.within s.cfg.scratchCap = true) (hf : Staged frame s) (sent : Nat) :
    OutboundInv (transmit frame sent s) := by
  obtain ⟨out, as, k, -, ⟨-, h⟩ | ⟨hk, h⟩ | ⟨-, h⟩⟩ := transmit_cases frame sent s <;> rw [h]
  · exact .of_idle rfl hm
  · refine ⟨hm, nofun, fun f j hj => ?_⟩
    cases hj
    exact ⟨hk, hf⟩
  · exact .of_idle rfl hm

/-- SENDTEXT waits for text only while some is missing, and transmits the frame it has just staged (R33, R105). -/
theorem collectText_keeps_outboundInv {d ty : Byte} {n : Half} {taken : List Byte} {s t : State} (h : OutboundInv s)
    (ht : collectText d ty n taken s = .next t) : OutboundInv t := by
  rcases collectText_cases d ty n taken s with ⟨hn, hw⟩ | ⟨-, hl, hw⟩ | ⟨-, -, hw⟩ <;> rw [hw] at ht <;> cases ht
  · refine ⟨h.scratch, fun d' t' n' l hl => ?_, nofun⟩
    cases hl
    rw [List.length_append]; exact hn
  · apply transmit_outboundInv
    · exact h.scratch_writeFrom hl
    · exact ⟨hl, textFrame_total .., fun j hj => (Memory.read_writeFrom_zero h.scratch.1 _ j).trans (dif_pos hj)⟩

theorem resumeSend_keeps_outboundInv {p : Sending} {s t : State} (h : OutboundInv s) (hs : s.sending = some p)
    (ht : resumeSend p s = .next t) : OutboundInv t := by
  cases p with
  | awaitText d ty n taken => exact collectText_keeps_outboundInv h ht
  | transmit frame sent =>
    cases ht
    exact transmit_outboundInv h.scratch (h.transmitting frame sent hs).2 sent

/-- Every command, taken with no SENDTEXT in progress, keeps the outbound part. -/
theorem exec_keeps_outboundInv {i : Instr} {s t : State} (h : OutboundInv s) (hi : s.sending = none)
    (ht : exec i s = .next t) : OutboundInv t := by
  rcases instr_shapes i with rfl | ⟨d, ty, n, rfl⟩ | ⟨d, ty, n, rfl⟩ | ⟨h1, h2, h3⟩
  · obtain ⟨-, hs, hcfg⟩ := poll_keeps ht
    exact h.of_same hs hcfg
  · rcases exec_buildHdr_cases d ty n s with ⟨h7, hw⟩ | ⟨-, hw⟩ <;> rw [hw] at ht <;> cases ht
    exact .of_idle hi (h.scratch_writeFrom h7)
  · exact collectText_keeps_outboundInv h ht
  · obtain ⟨-, hs, hcfg⟩ := exec_simple_keeps h1 h2 h3 ht
    exact h.of_same hs hcfg

/-! ## Every step keeps the invariant, and goes on -/

/-- The events to come are free. -/
theorem Inv.with_inputs {s : State} (h : Inv s) (es : List Event) : Inv { s with inputs := es } :=
  ⟨h.config, h.occupancy, h.payload, h.scratch, h.header, h.window, h.accepted, h.awaiting, h.transmitting⟩

theorem exec_keeps_inv {i : Instr} {s t : State} (h : Inv s) (hi : s.sending = none) (ht : exec i s = .next t) :
    Inv t := by
  obtain ⟨hv, hr, ho⟩ := (inv_iff s).1 h
  exact (inv_iff t).2 ⟨by rw [(exec_keeps_inputs ht).2]; exact hv,
    exec_keeps_receiveInv (valid_bounds hv).1 hr ht, exec_keeps_outboundInv ho hi ht⟩

theorem resumeSend_keeps_inv {p : Sending} {s t : State} (h : Inv s) (hs : s.sending = some p)
    (ht : resumeSend p s = .next t) : Inv t := by
  obtain ⟨hv, hr, ho⟩ := (inv_iff s).1 h
  obtain ⟨-, hsame, hcfg⟩ := resumeSend_keeps ht
  exact (inv_iff t).2 ⟨by rw [hcfg]; exact hv, hr.of_same hsame hcfg, resumeSend_keeps_outboundInv ho hs ht⟩

theorem takeRx_keeps_inv {s : State} (h : Inv s) (b : Byte) : Inv (takeRx b s) := by
  obtain ⟨hv, hr, ho⟩ := (inv_iff s).1 h
  exact (inv_iff _).2 ⟨hv, hr.ringAppend (valid_bounds hv).1 b, ho.of_same ⟨rfl, rfl, rfl, rfl, rfl⟩ rfl⟩

theorem takeClear_keeps_inv {s : State} (h : Inv s) : Inv (takeClear s) := by
  obtain ⟨hv, hr, ho⟩ := (inv_iff s).1 h
  exact (inv_iff _).2 ⟨hv, hr.teardown, ho.of_same ⟨rfl, rfl, rfl, rfl, rfl⟩ rfl⟩

theorem illegalCommand_keeps_inv {s : State} (h : Inv s) : Inv (illegalCommand s) := by
  obtain ⟨hv, hr, ho⟩ := (inv_iff s).1 h
  have ha : Answered s (illegalCommand s) := .raise (by decide)
  exact (inv_iff _).2 ⟨hv, hr.answered ha, ho.of_same ha.keeps.2.1 rfl⟩

theorem step_keeps_inv {s t : State} (h : Inv s) (ht : step s = .next t) : Inv t := by
  rcases step_cases s with ⟨rest, -, hst⟩ | ⟨p, hs, -, hst⟩ | ⟨-, -, hst⟩ | ⟨hi, w, rest, i, -, -, hst⟩ |
    ⟨-, w, rest, e, -, -, hst⟩ | ⟨-, b, rest, -, hst⟩ | ⟨-, rest, -, hst⟩ <;> rw [hst] at ht
  case inr.inl => exact resumeSend_keeps_inv h hs ht
  case inr.inr.inr.inl => exact exec_keeps_inv (h.with_inputs rest) hi ht
  all_goals cases ht
  · exact (powerOn_powerOnState (h.with_inputs rest).config).inv
  · exact h
  · exact illegalCommand_keeps_inv (h.with_inputs rest)
  · exact takeRx_keeps_inv (h.with_inputs rest) b
  · exact takeClear_keeps_inv (h.with_inputs rest)

/-- With TREM = PLEN + 1 the trailing bytes never meet an empty ring (R21, R83). -/
theorem pollTrailing_goes_on {s : State} (h : s.trem.toNat = s.plen.toNat + 1) : ∃ t, pollTrailing s = .next t := by
  rcases pollTrailing_cases s with ⟨-, hw⟩ | ⟨-, p, c, rest, -, -, hw⟩ | ⟨h1, h2, -⟩
  · exact ⟨_, hw⟩
  · exact ⟨_, hw⟩
  · omega

theorem poll_goes_on {s : State} (h : Inv s) : ∃ t, exec .poll s = .next t := by
  rcases exec_poll_cases s with ⟨-, -, hw⟩ | ⟨-, b, rest, -, -, -, hw⟩ | ⟨-, b, rest, -, -, -, hw⟩ |
    ⟨-, d, sr, ty, hi, lo, rest, -, hw⟩ | ⟨hp, hw⟩
  · exact ⟨_, hw⟩
  · exact ⟨_, hw⟩
  · exact ⟨_, hw⟩
  · rw [hw]; exact pollTrailing_goes_on (trem_toNat _)
  · rw [hw]; exact pollTrailing_goes_on (h.header hp).1

theorem collectText_goes_on {s : State} (h : 9 ≤ s.cfg.scratchCap) (d ty : Byte) (n : Half) (taken : List Byte) :
    ∃ t, collectText d ty n taken s = .next t := by
  rcases collectText_cases d ty n taken s with ⟨-, hw⟩ | ⟨-, -, hw⟩ | ⟨-, hl, -⟩
  · exact ⟨_, hw⟩
  · exact ⟨_, hw⟩
  · exact absurd (textFrame_fits h d ty _) (Nat.not_le.2 hl)

theorem exec_goes_on {s : State} (h : Inv s) (i : Instr) : ∃ t, exec i s = .next t := by
  have hcap := (valid_bounds h.config).2
  rcases instr_shapes i with rfl | ⟨d, ty, n, rfl⟩ | ⟨d, ty, n, rfl⟩ | ⟨h1, h2, h3⟩
  · exact poll_goes_on h
  · rcases exec_buildHdr_cases d ty n s with ⟨-, hw⟩ | ⟨hl, -⟩
    · exact ⟨_, hw⟩
    · omega
  · exact collectText_goes_on hcap d ty n []
  · obtain ⟨t, ht, -⟩ := exec_simple i s h1 h2 h3
    exact ⟨t, ht⟩

theorem step_goes_on {s : State} (h : Inv s) : ∃ t, step s = .next t := by
  rcases step_cases s with ⟨rest, -, hst⟩ | ⟨p, -, -, hst⟩ | ⟨-, -, hst⟩ | ⟨-, w, rest, i, -, -, hst⟩ |
    ⟨-, w, rest, e, -, -, hst⟩ | ⟨-, b, rest, -, hst⟩ | ⟨-, rest, -, hst⟩
  case inr.inl =>
    rw [hst]
    cases p with
    | awaitText d ty n taken => exact collectText_goes_on (valid_bounds h.config).2 d ty n taken
    | transmit frame sent => exact ⟨_, rfl⟩
  case inr.inr.inr.inl => rw [hst]; exact exec_goes_on (h.with_inputs rest) i
  all_goals exact ⟨_, hst⟩

/-- A run from a state with the invariant never stops and ends in one. -/
theorem run_goes_on {s : State} (h : Inv s) (k : Nat) : ∃ t, Sys2Proof.core.run k s = .next t ∧ Inv t := by
  induction k generalizing s with
  | zero => exact ⟨s, rfl, h⟩
  | succ k ih =>
    obtain ⟨s', hs'⟩ := step_goes_on h
    rw [run_next hs']
    exact ih (step_keeps_inv h hs')

/-! ## The responses of a step -/

/-- t has one response more than s, with a status the PFE may give (R34, R66). -/
def Delivers (s t : State) : Prop :=
  ∃ r : Response, t.rsp = s.rsp ++ [r] ∧ r.status ≠ .unknownPacketType ∧ r.status ≠ .logMessage

theorem Delivers.rsp_ne {s t : State} (h : Delivers s t) : t.rsp ≠ s.rsp := by
  obtain ⟨r, hr, -⟩ := h
  simp [hr]

theorem Answered.delivers {s t : State} (h : Answered s t) : Delivers s t := by
  obtain ⟨st, v, a, bs, k, rfl, hst⟩ := h
  exact ⟨_, rfl, hst⟩

theorem pollTrailing_delivers {s t : State} (h : pollTrailing s = .next t) : Delivers s t := by
  rcases pollTrailing_cases s with ⟨-, hw⟩ | ⟨-, p, c, rest, -, -, hw⟩ | ⟨-, -, hw⟩ <;> rw [hw] at h <;> cases h
  · exact ⟨_, rfl, nofun, nofun⟩
  · exact ⟨_, rfl, nofun, nofun⟩

theorem poll_delivers {s t : State} (h : exec .poll s = .next t) : Delivers s t := by
  rcases exec_poll_cases s with ⟨-, -, hw⟩ | ⟨-, b, rest, -, -, -, hw⟩ | ⟨-, b, rest, -, -, -, hw⟩ |
    ⟨-, d, sr, ty, hi, lo, rest, -, hw⟩ | ⟨-, hw⟩ <;> rw [hw] at h
  case inr.inr.inr.inl => exact (pollTrailing_delivers h :)
  case inr.inr.inr.inr => exact (pollTrailing_delivers h :)
  all_goals cases h; exact ⟨_, rfl, nofun, nofun⟩

/-- What a SENDTEXT in progress does to the responses: it delivers its one and ends, or waits and delivers none. -/
def DeliversOrWaits (s t : State) : Prop := Delivers s t ∨ t.rsp = s.rsp ∧ t.sending ≠ none

theorem transmit_deliversOrWaits (frame : List Byte) (sent : Nat) (s : State) :
    DeliversOrWaits s (transmit frame sent s) := by
  obtain ⟨out, as, k, -, ⟨-, h⟩ | ⟨-, h⟩ | ⟨-, h⟩⟩ := transmit_cases frame sent s <;> rw [h]
  · exact .inl ⟨_, rfl, nofun, nofun⟩
  · exact .inr ⟨rfl, nofun⟩
  · exact .inl ⟨_, rfl, nofun, nofun⟩

theorem collectText_deliversOrWaits {d ty : Byte} {n : Half} {taken : List Byte} {s t : State}
    (h : collectText d ty n taken s = .next t) : DeliversOrWaits s t := by
  rcases collectText_cases d ty n taken s with ⟨-, hw⟩ | ⟨-, -, hw⟩ | ⟨-, -, hw⟩ <;> rw [hw] at h <;> cases h
  · exact .inr ⟨rfl, nofun⟩
  · exact transmit_deliversOrWaits ..

theorem resumeSend_deliversOrWaits {p : Sending} {s t : State} (h : resumeSend p s = .next t) :
    DeliversOrWaits s t := by
  cases p with
  | awaitText d ty n taken => exact collectText_deliversOrWaits h
  | transmit frame sent => cases h; exact transmit_deliversOrWaits ..

/-- Every command delivers one response, but for a SENDTEXT that waits (R34). -/
theorem exec_delivers {i : Instr} {s t : State} (h : exec i s = .next t) :
    Delivers s t ∨ t.rsp = s.rsp ∧ t.sending ≠ none ∧ ∃ d ty n, i = .sendText d ty n := by
  rcases instr_shapes i with rfl | ⟨d, ty, n, rfl⟩ | ⟨d, ty, n, rfl⟩ | ⟨h1, h2, h3⟩
  · exact .inl (poll_delivers h)
  · rcases exec_buildHdr_cases d ty n s with ⟨-, hw⟩ | ⟨-, hw⟩ <;> rw [hw] at h <;> cases h
    exact .inl ⟨_, rfl, nofun, nofun⟩
  · rcases collectText_deliversOrWaits h with hd | ⟨hr, hs⟩
    · exact .inl hd
    · exact .inr ⟨hr, hs, d, ty, n, rfl⟩
  · obtain ⟨t', ht', ha⟩ := exec_simple i s h1 h2 h3
    rw [h] at ht'; cases ht'
    rcases ha with ha | ⟨k, ha⟩ | ⟨v, -, ha⟩ | ⟨-, ha⟩ <;> exact .inl ha.delivers

/-- An accepted command word delivers one response, but for a SENDTEXT that waits (R34, R65). -/
theorem runCommand_delivers {w : CmdWord} {s t : State} (h : runCommand w s = .next t) :
    Delivers s t ∨ t.rsp = s.rsp ∧ t.sending ≠ none ∧ ∃ d ty n, decode w = .ok (.sendText d ty n) := by
  cases hd : decode w with
  | ok i =>
    rw [runCommand_ok hd] at h
    rcases exec_delivers h with hr | ⟨hr, hs, d, ty, n, rfl⟩
    · exact .inl hr
    · exact .inr ⟨hr, hs, d, ty, n, rfl⟩
  | error e =>
    rw [runCommand_error hd] at h; cases h
    exact .inl (Answered.raise (by decide)).delivers

theorem step_delivers_at_most_one {s t : State} (h : step s = .next t) : t.rsp = s.rsp ∨ Delivers s t := by
  rcases step_cases s with ⟨rest, -, hst⟩ | ⟨p, -, -, hst⟩ | ⟨-, -, hst⟩ | ⟨-, w, rest, i, -, -, hst⟩ |
    ⟨-, w, rest, e, -, -, hst⟩ | ⟨-, b, rest, -, hst⟩ | ⟨-, rest, -, hst⟩ <;> rw [hst] at h
  case inr.inl =>
    rcases resumeSend_deliversOrWaits h with hd | ⟨hr, -⟩
    · exact .inr hd
    · exact .inl hr
  case inr.inr.inr.inl =>
    rcases exec_delivers h with hd | ⟨hr, -⟩
    · exact .inr hd
    · exact .inl hr
  case inr.inr.inr.inr.inl => cases h; exact .inr (Answered.raise (by decide)).delivers
  all_goals cases h; exact .inl rfl

end Sys2Proof.Machine

/-! ## The obligations -/

namespace Sys2Proof.Proofs

open Sys2Proof Sys2Proof.Machine

/-- Settles O56: each step's operation keeps the receive-side part and the outbound part of the invariant. -/
theorem stepKeepsInvariant : Obligations.StepKeepsInvariant :=
  fun _ _ h ht => step_keeps_inv h ht

/-- Settles O53, from what a command, and what the continuation of a SENDTEXT, does to the responses. -/
theorem oneResponsePerCommand : Obligations.OneResponsePerCommand := by
  intro s t h
  refine ⟨step_delivers_at_most_one h, fun w rest hi hs => ?_, fun hs ht => ?_⟩
  · rw [step_command hi hs] at h
    rcases runCommand_delivers h with hd | ⟨-, hw, hc⟩
    · exact .inl hd.rsp_ne
    · exact .inr ⟨hw, hc⟩
  · by_cases hp : ∃ rest, s.inputs = .powerOn :: rest
    · exact .inr hp
    · obtain ⟨p, hsp⟩ := Option.ne_none_iff_exists'.1 hs
      rw [step_sending hsp (not_exists.1 hp)] at h
      rcases resumeSend_deliversOrWaits h with hd | ⟨-, hw⟩
      · exact .inl hd.rsp_ne
      · exact absurd ht hw

/-- Settles O54: no event and no command writes `cfg`. -/
theorem parametersNeverChange : Obligations.ParametersNeverChange :=
  fun _ _ h => step_keeps_cfg h

/-- Settles O58: power-on states have the invariant, and runs from such a state go on, by induction on their length. -/
theorem runsFromPowerOnNeverStop : Obligations.RunsFromPowerOnNeverStop :=
  fun _ k h => run_goes_on h.inv k

/-- Settles O7: no SENDTEXT holds the word off, and the decoder accepts it. -/
theorem stepRunsDecodedCommand : Obligations.StepRunsDecodedCommand := by
  intro s w rest i hi hs hd
  rw [step_command hi hs, runCommand_ok hd]

/-- Settles O55: a power-on state's ring is empty, its parser searching, its window closed and its channel idle, which
leaves only the parameters and buffers to the invariant. -/
theorem invariantHoldsAfterPowerOn : Obligations.InvariantHoldsAfterPowerOn :=
  ⟨fun _ h => h.inv, State.resetWith_powerOnState (by decide), fun _ h => State.resetWith_powerOnState h⟩

end Sys2Proof.Proofs

/-! PROOFS of the family 10_state: what each kind of step does to the parser, the window and the resync counter; runs
under a condition that every step keeps; SENDTEXT's ways to end and to wait; and states that no response tells apart. -/

namespace Sys2Proof.Machine

/-! ## The registers POLL computes, as numbers -/

theorem bigEndian_eq_ofNat (hi lo : Byte) : bigEndian hi lo = BitVec.ofNat 16 (256 * hi.toNat + lo.toNat) := by
  rw [← bigEndian_toNat, BitVec.ofNat_toNat, BitVec.setWidth_eq]

/-- TREM of a header just read, from its two length bytes (R21). -/
theorem trem_eq_ofNat (hi lo : Byte) :
    ((bigEndian hi lo).setWidth 17 + 1 : TrailCount) = BitVec.ofNat 17 (256 * hi.toNat + lo.toNat + 1) := by
  rw [← bigEndian_toNat, ← trem_toNat, BitVec.ofNat_toNat, BitVec.setWidth_eq]

theorem addToSum_eq_ofNat (c : Byte) (bs : List Byte) : addToSum c bs = BitVec.ofNat 8 (c.toNat + byteTotal bs) :=
  BitVec.eq_of_toNat_eq (by rw [addToSum_toNat, BitVec.toNat_ofNat])

/-- A POLL that reads a header and finds too few bytes after it keeps the header and waits (R80, R81). -/
theorem exec_poll_headerRead {s : State} {d sr ty hi lo : Byte} {rest : List Byte} (hp : s.pstate = .searchingHeader)
    (hq : s.q = sync0 :: sync1 :: d :: sr :: ty :: hi :: lo :: rest)
    (hl : rest.length < (bigEndian hi lo).toNat + 1) :
    exec .poll s = .next (respond .ok 0 0 [] { s with
      pktValid := false, csum := addToSum 0 [sync0, sync1, d, sr, ty, hi, lo], dest := d, src := sr, typ := ty,
      plen := bigEndian hi lo, trem := (bigEndian hi lo).setWidth 17 + 1, pstate := .headerValid, q := rest }) :=
  (exec_poll_ready hp (detectHeader_ready hq)).trans (pollTrailing_wait (by rw [trem_toNat]; exact hl))

/-! ## The GETSTAT word -/

/-- The GETSTAT value as a number: twice PKT_VALID plus PSTATE (R94). -/
theorem statWord_toNat (s : State) : (statWord s).toNat = 2 * s.pktValid.toNat + s.pstate.bit.toNat := by
  unfold statWord
  cases s.pktValid <;> cases s.pstate.bit <;> rfl

/-- Its two bits are the two flags. -/
theorem statWord_bits (s : State) :
    (statWord s).getLsbD 0 = s.pstate.bit ∧ (statWord s).getLsbD 1 = s.pktValid := by
  unfold statWord
  cases s.pktValid <;> cases s.pstate.bit <;> exact ⟨rfl, rfl⟩

theorem PState.bit_eq_true_iff (p : PState) : p.bit = true ↔ p = .headerValid := by
  cases p <;> simp [PState.bit]

/-- Both flags are never set together in a state with the invariant (R94). -/
theorem statWord_ne_three {s : State} (h : Inv s) : statWord s ≠ 3 := by
  intro h3
  obtain ⟨hb, hv⟩ := statWord_bits s
  rw [h3] at hb hv
  have hp := h.window hv.symm
  rw [(PState.bit_eq_true_iff s.pstate).1 hb.symm] at hp
  cases hp

/-! ## The opcode of a decoded word -/

theorem opField_of_decode {w : CmdWord} {i : Instr} (h : decode w = .ok i) : opField w = opcode i := by
  unfold decode at h
  split at h <;> cases h <;> exact BitVec.eq_of_toNat_eq ‹_›

/-! ## What each kind of step does to the parser, the window and the resync counter -/

/-- The next step tears the connection down: a CLEAR command or a `clear` pulse is taken (R31, R95). -/
def TearsDown (s : State) : Prop :=
  TakesCommand .clear s ∨ ∃ rest, s.inputs = .clear :: rest ∧ s.sending = none

/-- The parser with its header's TREM, the accessor window and the resync counter are the same. -/
structure SameParser (s t : State) : Prop where
  pstate : t.pstate = s.pstate
  trem : t.trem = s.trem
  pktValid : t.pktValid = s.pktValid
  resyncCnt : t.resyncCnt = s.resyncCnt

theorem SameReceive.sameParser {s t : State} (h : SameReceive s t) : SameParser s t :=
  ⟨h.pstate, h.trem, h.pktValid, h.resyncCnt⟩

theorem Answered.sameParser {s t : State} (h : Answered s t) : SameParser s t := by
  obtain ⟨st, v, a, bs, k, rfl, -⟩ := h
  exact ⟨rfl, rfl, rfl, rfl⟩

/-- A step that takes a command is that command. -/
theorem TakesCommand.step_eq {i : Instr} {s : State} (h : TakesCommand i s) :
    ∃ rest, step s = exec i { s with inputs := rest } := by
  obtain ⟨w, rest, hi, hs, hd⟩ := h
  exact ⟨rest, by rw [step_command hi hs, runCommand_ok hd]⟩

/-- A step that takes a command takes no power-on reset. -/
theorem TakesCommand.not_powerOn {i : Instr} {s : State} (h : TakesCommand i s) (rest : List Event) :
    s.inputs ≠ .powerOn :: rest := by
  obtain ⟨w, rest', hi, -⟩ := h
  rw [hi]; nofun

theorem TakesCommand.not_tearsDown {i : Instr} {s : State} (h : TakesCommand i s) (hi : i ≠ .clear) :
    ¬ TearsDown s := by
  rintro (hc | ⟨rest, hr, -⟩)
  · exact hi (takesCommand_unique h hc)
  · obtain ⟨w, rest', hw, -⟩ := h
    rw [hw] at hr; cases hr

theorem TearsDown.not_powerOn {s : State} (h : TearsDown s) (rest : List Event) : s.inputs ≠ .powerOn :: rest := by
  rcases h with hc | ⟨rest', hr, -⟩
  · exact hc.not_powerOn rest
  · rw [hr]; nofun

/-- Teardown returns to SearchingHeader, closes the window and leaves the resync counter (R95). -/
theorem TearsDown.step_spec {s t : State} (h : TearsDown s) (ht : step s = .next t) :
    t.pstate = .searchingHeader ∧ t.pktValid = false ∧ t.resyncCnt = s.resyncCnt := by
  rcases h with hc | ⟨rest, hr, hs⟩
  · obtain ⟨rest, hst⟩ := hc.step_eq
    rw [hst, exec_clear] at ht; cases ht
    exact ⟨rfl, rfl, rfl⟩
  · rw [step_clear hr hs] at ht; cases ht
    exact ⟨rfl, rfl, rfl⟩

/-- A command other than POLL and CLEAR leaves the parser, the window and the counter. -/
theorem exec_sameParser {i : Instr} {s t : State} (hp : i ≠ .poll) (hc : i ≠ .clear) (h : exec i s = .next t) :
    SameParser s t := by
  rcases instr_shapes i with rfl | ⟨d, ty, n, rfl⟩ | ⟨d, ty, n, rfl⟩ | ⟨h1, h2, h3⟩
  · exact absurd rfl hp
  · exact (buildHdr_keeps h).2.1.sameParser
  · exact (collectText_keeps h).2.1.sameParser
  · obtain ⟨t', ht', ha⟩ := exec_simple i s h1 h2 h3
    rw [h] at ht'; cases ht'
    rcases ha with ha | ⟨k, ha⟩ | ⟨v, -, ha⟩ | ⟨rfl, -⟩
    · exact ha.sameParser
    · exact { ha.sameParser with }
    · exact { ha.sameParser with }
    · exact absurd rfl hc

/-- A step that is no POLL, no teardown and no power-on reset leaves the parser, the window and the counter. -/
theorem step_sameParser {s t : State} (hp : ¬ TakesCommand .poll s) (hc : ¬ TearsDown s)
    (hr : ∀ rest, s.inputs ≠ .powerOn :: rest) (ht : step s = .next t) : SameParser s t := by
  rcases step_cases s with ⟨rest, hi, -⟩ | ⟨p, -, -, hst⟩ | ⟨-, -, hst⟩ | ⟨hs, w, rest, i, hi, hd, hst⟩ |
    ⟨-, w, rest, e, -, -, hst⟩ | ⟨-, b, rest, -, hst⟩ | ⟨hs, rest, hi, -⟩
  case inl => exact absurd hi (hr rest)
  case inr.inl => rw [hst] at ht; exact (resumeSend_keeps ht).2.1.sameParser
  case inr.inr.inr.inl =>
    have hi' : TakesCommand i s := ⟨w, rest, hi, hs, hd⟩
    rw [hst] at ht
    exact { exec_sameParser (by rintro rfl; exact hp hi') (by rintro rfl; exact hc (.inl hi')) ht with }
  case inr.inr.inr.inr.inr.inr => exact absurd (.inr ⟨rest, hi, hs⟩) hc
  all_goals rw [hst] at ht; cases ht; exact ⟨rfl, rfl, rfl, rfl⟩

/-- The four kinds of step as the parser sees them. -/
theorem step_kinds (s : State) :
    TakesCommand .poll s ∨ TearsDown s ∨ (∃ rest, s.inputs = .powerOn :: rest) ∨
      (¬ TakesCommand .poll s ∧ ¬ TearsDown s ∧ ∀ rest, s.inputs ≠ .powerOn :: rest) := by
  by_cases hp : TakesCommand .poll s
  · exact .inl hp
  by_cases hc : TearsDown s
  · exact .inr (.inl hc)
  by_cases hr : ∃ rest, s.inputs = .powerOn :: rest
  · exact .inr (.inr (.inl hr))
  · exact .inr (.inr (.inr ⟨hp, hc, not_exists.1 hr⟩))

/-! ## What a POLL answers, counts and enters -/

/-- An accepting POLL's outcome, or any other POLL's (R80, R84). -/
def PollAnswers (s t : State) : Prop :=
  (t.pktValid = true ∧ t.rsp = s.rsp ++ [⟨.ok, 1, 0, []⟩] ∧ t.dest = s.cfg.myId ∧ t.csum = 0) ∨
    (t.pktValid = false ∧ t.rsp = s.rsp ++ [⟨.ok, 0, 0, []⟩])

/-- The end of a POLL opens the window exactly on acceptance, and answers so (R80, R84). -/
theorem finishFrame_pollAnswers (s : State) : PollAnswers s (finishFrame s) := by
  cases h : accepts s with
  | true =>
    simp only [accepts, Bool.and_eq_true, beq_iff_eq] at h
    obtain ⟨hd, hc⟩ := h
    refine .inl ⟨?_, ?_, hd, hc⟩ <;> simp [accepts, hd, hc, bitWord]
  | false => refine .inr ⟨?_, ?_⟩ <;> simp [h, bitWord]

/-- The trailing part of POLL answers as said and leaves the counter. -/
theorem pollTrailing_spec {s t : State} (hv : s.pktValid = false) (h : pollTrailing s = .next t) :
    PollAnswers s t ∧ t.resyncCnt = s.resyncCnt := by
  rcases pollTrailing_cases s with ⟨-, hw⟩ | ⟨-, p, c, rest, -, -, hw⟩ | ⟨-, -, hw⟩ <;> rw [hw] at h <;> cases h
  · exact ⟨.inr ⟨hv, rfl⟩, rfl⟩
  · exact ⟨finishFrame_pollAnswers _, rfl⟩

theorem poll_answers {s t : State} (h : exec .poll s = .next t) : PollAnswers s t := by
  rcases exec_poll_cases s with ⟨-, -, hw⟩ | ⟨-, b, rest, -, -, -, hw⟩ | ⟨-, b, rest, -, -, -, hw⟩ |
    ⟨-, d, sr, ty, hi, lo, rest, -, hw⟩ | ⟨-, hw⟩ <;> rw [hw] at h
  case inr.inr.inr.inl => exact ((pollTrailing_spec rfl h).1 :)
  case inr.inr.inr.inr => exact ((pollTrailing_spec rfl h).1 :)
  all_goals cases h; exact .inr ⟨rfl, rfl⟩

/-- POLL leaves the counter, or is searching, meets seven bytes that begin no header, and counts one resync (R82). -/
theorem poll_resyncCnt {s t : State} (h : exec .poll s = .next t) :
    t.resyncCnt = s.resyncCnt ∨
      (t.resyncCnt = s.resyncCnt + 1 ∧ s.pstate = .searchingHeader ∧ 7 ≤ s.q.length ∧
        ¬ ∃ rest, s.q = sync0 :: sync1 :: rest) := by
  rcases exec_poll_cases s with ⟨-, -, hw⟩ | ⟨hp, b, rest, hq, hl, hb, hw⟩ | ⟨hp, b, rest, hq, hl, hb, hw⟩ |
    ⟨-, d, sr, ty, hi, lo, rest, -, hw⟩ | ⟨-, hw⟩ <;> rw [hw] at h
  case inl => cases h; exact .inl rfl
  case inr.inr.inr.inl => exact .inl (pollTrailing_spec rfl h).2
  case inr.inr.inr.inr => exact .inl (pollTrailing_spec rfl h).2
  all_goals
    cases h
    refine .inr ⟨rfl, hp, by simp only [hq, List.length_cons]; omega, ?_⟩
    rintro ⟨rest', hq'⟩
    rw [hq] at hq'; cases hq'
    exact hb rfl

/-- A searching POLL enters HeaderValid only over a whole header (R81). -/
theorem poll_enters_headerValid {s t : State} (hp : s.pstate = .searchingHeader) (h : exec .poll s = .next t)
    (ht : t.pstate = .headerValid) : ∃ rest, s.q = sync0 :: sync1 :: rest ∧ 5 ≤ rest.length := by
  rcases exec_poll_cases s with ⟨-, -, hw⟩ | ⟨-, b, rest, -, -, -, hw⟩ | ⟨-, b, rest, -, -, -, hw⟩ |
    ⟨-, d, sr, ty, hi, lo, rest, hq, -⟩ | ⟨hv, -⟩
  case inr.inr.inr.inl => exact ⟨_, hq, by simp⟩
  case inr.inr.inr.inr => rw [hp] at hv; cases hv
  all_goals
    rw [hw] at h; cases h
    exact absurd (hp.symm.trans ht) nofun

/-! ## Runs under a condition that every step keeps -/

/-- A run of k + 1 steps that goes on is a step that goes on and a run of k. -/
theorem run_succ_next {s t : State} {k : Nat} (h : Sys2Proof.core.run (k + 1) s = .next t) :
    ∃ s', step s = .next s' ∧ Sys2Proof.core.run k s' = .next t := by
  simp only [Host.Core.run] at h
  split at h
  next s' hs => exact ⟨s', hs, h⟩
  next => cases h
  next => cases h

/-- What every step keeps holds at the end of every run. -/
theorem run_keeps {P : State → Prop} (hstep : ∀ s t, P s → step s = .next t → P t) {s t : State} (k : Nat) (h : P s)
    (ht : Sys2Proof.core.run k s = .next t) : P t := by
  induction k generalizing s with
  | zero => cases ht; exact h
  | succ k ih =>
    obtain ⟨s', hs, hrun⟩ := run_succ_next ht
    exact ih (hstep s s' h hs) hrun

/-- A step takes no event, or the first (R51, R52). -/
theorem step_inputs {s t : State} (h : step s = .next t) : t.inputs = s.inputs ∨ ∃ e, s.inputs = e :: t.inputs := by
  rcases step_cases s with ⟨rest, hi, hst⟩ | ⟨p, -, -, hst⟩ | ⟨-, -, hst⟩ | ⟨-, w, rest, i, hi, -, hst⟩ |
    ⟨-, w, rest, e, hi, -, hst⟩ | ⟨-, b, rest, hi, hst⟩ | ⟨-, rest, hi, hst⟩ <;> rw [hst] at h
  case inr.inl => exact .inl (resumeSend_keeps h).1
  case inr.inr.inl => cases h; exact .inl rfl
  case inr.inr.inr.inl => exact .inr ⟨_, by rw [(exec_keeps_inputs h).1]; exact hi⟩
  all_goals cases h; exact .inr ⟨_, hi⟩

/-- A teardown takes an event that releases a held header. -/
theorem TearsDown.releases {s : State} (h : TearsDown s) : ∃ e ∈ s.inputs, releases e = true := by
  rcases h with ⟨w, rest, hi, -, hd⟩ | ⟨rest, hi, -⟩ <;> refine ⟨_, by rw [hi]; exact List.mem_cons_self, ?_⟩
  · rw [Machine.releases, opField_of_decode hd]; rfl
  · rfl

/-- A header with this TREM is held: the ring cannot hold as many bytes, and no event to come releases it (R127). -/
structure HeldHeader (trem : TrailCount) (s : State) : Prop where
  inv : Inv s
  pstate : s.pstate = .headerValid
  trem_eq : s.trem = trem
  beyond_ring : s.cfg.rbCap < trem.toNat
  unreleased : ∀ e ∈ s.inputs, releases e = false

theorem HeldHeader.short {n : TrailCount} {s : State} (h : HeldHeader n s) : s.q.length < s.trem.toNat := by
  rw [h.trem_eq]; exact h.inv.occupancy.trans_lt h.beyond_ring

/-- A POLL of a held header only answers 0: the window is closed already (R79, R94). -/
theorem HeldHeader.poll {n : TrailCount} {s : State} (h : HeldHeader n s) :
    exec .poll s = .next (respond .ok 0 0 [] s) := by
  have hv : s.pktValid = false := by
    rw [← Bool.not_eq_true]
    exact fun hv => absurd (h.pstate.symm.trans (h.inv.window hv)) nofun
  have hs : { s with pktValid := false } = s := by rw [← hv]
  rw [exec_poll_headerValid h.pstate, hs, pollTrailing_wait h.short]

/-- Only the number of TREM bytes or a release could end the hold, and neither comes (R127). -/
theorem HeldHeader.step {n : TrailCount} {s t : State} (h : HeldHeader n s) (ht : step s = .next t) :
    HeldHeader n t := by
  have hmem : ∀ e ∈ t.inputs, e ∈ s.inputs := by
    rcases step_inputs ht with hi | ⟨e, hi⟩ <;> rw [hi]
    · exact fun _ => id
    · exact fun _ => List.mem_cons_of_mem e
  have hparser : t.pstate = s.pstate ∧ t.trem = s.trem := by
    rcases step_kinds s with hp | hc | ⟨rest, hr⟩ | ⟨hp, hc, hr⟩
    · obtain ⟨rest, hst⟩ := hp.step_eq
      rw [hst, exec_poll_headerValid (s := { s with inputs := rest }) h.pstate,
        pollTrailing_wait (by exact h.short)] at ht
      cases ht; exact ⟨rfl, rfl⟩
    · obtain ⟨e, he, hrel⟩ := hc.releases
      exact absurd (hrel.symm.trans (h.unreleased e he)) nofun
    · exact absurd (h.unreleased .powerOn (by rw [hr]; exact List.mem_cons_self)) nofun
    · have hs := step_sameParser hp hc hr ht
      exact ⟨hs.pstate, hs.trem⟩
  obtain ⟨hps, htr⟩ := hparser
  exact ⟨step_keeps_inv h.inv ht, hps.trans h.pstate, htr.trans h.trem_eq, by
    rw [step_keeps_cfg ht]; exact h.beyond_ring, fun e he => h.unreleased e (hmem e he)⟩

/-- A searching parser over a ring of fewer than seven cells (R128). -/
structure SmallRing (s : State) : Prop where
  inv : Inv s
  pstate : s.pstate = .searchingHeader
  cells : s.cfg.rbCap < 7

theorem SmallRing.short {s : State} (h : SmallRing s) : s.q.length < 7 := h.inv.occupancy.trans_lt h.cells

theorem SmallRing.poll {s : State} (h : SmallRing s) :
    exec .poll s = .next (respond .ok 0 0 [] { s with pktValid := false }) :=
  exec_poll_notYet h.pstate (detectHeader_short h.short)

/-- Only a POLL that finds a whole header could end the search (R81, R128). -/
theorem SmallRing.step {s t : State} (h : SmallRing s) (ht : step s = .next t) : SmallRing t := by
  refine ⟨step_keeps_inv h.inv ht, ?_, by rw [step_keeps_cfg ht]; exact h.cells⟩
  rcases step_kinds s with hp | hc | ⟨rest, hr⟩ | ⟨hp, hc, hr⟩
  · obtain ⟨rest, hst⟩ := hp.step_eq
    have hs : SmallRing { s with inputs := rest } := ⟨h.inv.with_inputs rest, h.pstate, h.cells⟩
    rw [hst, hs.poll] at ht; cases ht
    exact h.pstate
  · exact (hc.step_spec ht).1
  · rw [step_powerOn hr] at ht; cases ht; rfl
  · exact (step_sameParser hp hc hr ht).pstate.trans h.pstate

/-! ## The frame SENDTEXT builds -/

theorem headerBytes_ofNat (c : Config) (d ty : Byte) (k : Nat) :
    headerBytes c d ty (BitVec.ofNat 16 k) =
      [0xAA, 0x55, d, c.myId, ty, BitVec.ofNat 8 (k / 256), BitVec.ofNat 8 (k % 256)] := by
  have hhi : highByte (BitVec.ofNat 16 k) = BitVec.ofNat 8 (k / 256) := by
    apply BitVec.eq_of_toNat_eq; rw [highByte_toNat, BitVec.toNat_ofNat, BitVec.toNat_ofNat]; omega
  have hlo : lowByte (BitVec.ofNat 16 k) = BitVec.ofNat 8 (k % 256) := by
    apply BitVec.eq_of_toNat_eq; rw [lowByte_toNat, BitVec.toNat_ofNat, BitVec.toNat_ofNat]; omega
  rw [headerBytes, hhi, hlo]; rfl

theorem textPayload_length {s : State} {n : Nat} (h : n ≤ s.text.length) :
    (textPayload s n).length = keptLength s.cfg n + 1 := by
  simp [textPayload, keptLength]; omega

/-- The frame of the first `n` text bytes is the wire format's frame of the kept text and the terminator (R57 to R59,
R105). -/
theorem textFrame_eq_wireFrame {s : State} {n : Nat} (h : n ≤ s.text.length) (d ty : Byte) :
    textFrame s.cfg d ty (s.text.take n) = wireFrame d s.cfg.myId ty (textPayload s n) := by
  have hn : (s.text.take n).length = n := by simpa using h
  have hk : ∀ hdr : List Byte, hdr ++ (s.text.take n).take (keptLength s.cfg n) ++ [0] = hdr ++ textPayload s n := by
    intro hdr
    rw [List.take_take, keptLength, min_eq_left (min_le_left _ _), List.append_assoc]; rfl
  rw [textFrame, hn, headerBytes_ofNat, hk, ← textPayload_length h]
  rfl

theorem wireFrame_length {s : State} {n : Nat} (h : n ≤ s.text.length) (d ty : Byte) :
    (wireFrame d s.cfg.myId ty (textPayload s n)).length = min n (s.cfg.scratchCap - 9) + 9 := by
  have hn : (s.text.take n).length = n := by simpa using h
  rw [← textFrame_eq_wireFrame h, textFrame_length, hn, keptLength]

/-! ## The text phase -/

theorem collectText_waits {d ty : Byte} {n : Half} {taken : List Byte} {s : State}
    (h : taken.length + s.text.length < n.toNat) :
    collectText d ty n taken s = .next { s with
      text := [], sending := some (.awaitText d ty n (taken ++ s.text)) } := by
  rcases collectText_cases d ty n taken s with ⟨-, hw⟩ | ⟨hl, -⟩ | ⟨hl, -⟩
  · exact hw
  · omega
  · omega

/-- With its text there and a frame that fits, SENDTEXT writes the frame to Scratch and transmits it (R105). -/
theorem exec_sendText_ready {d ty : Byte} {n : Half} {s : State} (h : n.toNat ≤ s.text.length)
    (hl : (textFrame s.cfg d ty (s.text.take n.toNat)).length ≤ s.cfg.scratchCap) :
    exec (.sendText d ty n) s = .next (transmit (textFrame s.cfg d ty (s.text.take n.toNat)) 0 { s with
      text := s.text.drop n.toNat,
      scratch := s.scratch.writeFrom 0 (textFrame s.cfg d ty (s.text.take n.toNat)) }) := by
  rcases collectText_cases d ty n [] s with ⟨hn, -⟩ | ⟨-, -, hw⟩ | ⟨-, hf, -⟩
  · rw [List.length_nil] at hn; omega
  · exact hw
  · exact absurd hl (Nat.not_le.2 hf)

/-- With parameters in range the frame fits, and it is the wire format's (R6, R105). -/
theorem exec_sendText_transmits {s : State} {n : Half} (hc : s.cfg.valid = true) (h : n.toNat ≤ s.text.length)
    (d ty : Byte) :
    exec (.sendText d ty n) s = .next (transmit (wireFrame d s.cfg.myId ty (textPayload s n.toNat)) 0 { s with
      text := s.text.drop n.toNat,
      scratch := s.scratch.writeFrom 0 (wireFrame d s.cfg.myId ty (textPayload s n.toNat)) }) := by
  rw [← textFrame_eq_wireFrame h]
  exact exec_sendText_ready h (textFrame_fits (valid_bounds hc).2 d ty _)

/-- Scratch after the frame is written: the frame below its length, the old cells from there on (R105). -/
theorem scratch_frame_cells {m : Memory} (hm : m.wf = true) (f : List Byte) :
    (∀ j (h : j < f.length), (m.writeFrom 0 f).read j = f[j]) ∧
      ∀ j, f.length ≤ j → (m.writeFrom 0 f).read j = m.read j :=
  ⟨fun j h => by rw [Memory.read_writeFrom_zero hm, dif_pos h],
    fun j h => by rw [Memory.read_writeFrom_zero hm, dif_neg (Nat.not_lt.2 h)]⟩

/-! ## The transport's three outcomes (R106) -/

theorem transmit_all {f : List Byte} {as : List SinkAnswer} {s : State}
    (h : s.sink = List.replicate f.length .take ++ as) :
    transmit f 0 s = { s with
      txOut := s.txOut ++ f, sink := as, sending := none,
      rsp := s.rsp ++ [⟨.ok, countWord f.length, countWord f.length, []⟩] } := by
  simp [transmit, h, sinkTake_all, respond]

theorem transmit_broken {f : List Byte} {k : Nat} {as : List SinkAnswer} {s : State} (hk : k < f.length)
    (h : s.sink = List.replicate k .take ++ .broken :: as) :
    transmit f 0 s = { s with
      txOut := s.txOut ++ f.take k, sink := as, sending := none,
      rsp := s.rsp ++ [⟨.transportBroken, countWord f.length, countWord k, []⟩] } := by
  simp [transmit, h, sinkTake_broken f k hk, respond, hk.le]

theorem transmit_stalls {f : List Byte} {k : Nat} {s : State} (hk : k < f.length)
    (h : s.sink = List.replicate k .take) :
    transmit f 0 s = { s with txOut := s.txOut ++ f.take k, sink := [], sending := some (.transmit f k) } := by
  simp [transmit, h, sinkTake_stall f k hk, hk, hk.le]

/-! ## Going on with a waiting SENDTEXT -/

/-- What SENDTEXT was waiting for is no input of what it does next. -/
theorem transmit_ignores_sending (f : List Byte) (k : Nat) (s : State) (x : Option Sending) :
    transmit f k { s with sending := x } = transmit f k s := by
  simp only [transmit, respond]

theorem collectText_ignores_sending (d ty : Byte) (n : Half) (taken : List Byte) (s : State) (x : Option Sending) :
    collectText d ty n taken { s with sending := x } = collectText d ty n taken s := by
  simp only [collectText, writeScratch]
  split_ifs <;> simp only [← transmit_ignores_sending _ _ _ x]

/-- Text bytes taken in two parts are taken as one (R33). -/
theorem collectText_split {d ty : Byte} {n : Half} {taken more : List Byte} {s : State}
    (h : taken.length ≤ n.toNat) :
    collectText d ty n taken { s with text := more } = collectText d ty n [] { s with text := taken ++ more } := by
  have htake : taken ++ more.take (n.toNat - taken.length) = (taken ++ more).take n.toNat := by
    rw [List.take_append, List.take_of_length_le h]
  have hdrop : more.drop (n.toNat - taken.length) = (taken ++ more).drop n.toNat := by
    rw [List.drop_append, List.drop_of_length_le h, List.nil_append]
  simp only [collectText, htake, hdrop, List.length_nil, Nat.sub_zero, List.nil_append]

/-- A transport that takes k bytes and then answers as `as` does, takes k bytes and goes on with the others. -/
theorem sinkTake_replicate_append {bytes : List Byte} {k : Nat} (hk : k ≤ bytes.length) (as : List SinkAnswer) :
    sinkTake bytes (List.replicate k .take ++ as) =
      (bytes.take k ++ (sinkTake (bytes.drop k) as).1, (sinkTake (bytes.drop k) as).2) := by
  induction k generalizing bytes with
  | zero => simp
  | succ k ih =>
    cases bytes with
    | nil => simp at hk
    | cons b bs => simp [List.replicate_succ, sinkTake, ih (by simpa using hk)]

/-- A frame whose first k bytes were taken is transmitted from byte k as if from its start (R106). -/
theorem transmit_resumes {f : List Byte} {k : Nat} {s : State} {as : List SinkAnswer} (hk : k ≤ f.length)
    (h : s.sink = List.replicate k .take ++ as) :
    transmit f k { s with txOut := s.txOut ++ f.take k, sink := as } = transmit f 0 s := by
  simp [transmit, respond, h, sinkTake_replicate_append hk, hk]

/-- A transmission that waits has met an answer for each byte taken, and no other. -/
theorem transmit_waiting {f : List Byte} {s : State} {p : Sending} (h : (transmit f 0 s).sending = some p) :
    ∃ k, k < f.length ∧ s.sink = List.replicate k .take ∧ p = .transmit f k := by
  obtain ⟨k, hout, hle, ⟨hb, -, -⟩ | ⟨hb, ha, hlast⟩⟩ := sinkTake_spec f s.sink
  · simp [transmit, hb, respond] at h
  · have hlen : (sinkTake f s.sink).1.length = k := by rw [hout, List.length_take, min_eq_left hle]
    by_cases hk : k < f.length
    · refine ⟨k, hk, by simpa [hlast hk] using ha, ?_⟩
      simpa [transmit, hb, hlen, hk, eq_comm] using h
    · simp [transmit, hb, hlen, hk, respond] at h

/-- A SENDTEXT that waits for text goes on as if the text offered since had been there from the start (R33). -/
theorem sendText_resumes_text (d ty : Byte) (n : Half) (s : State) (more : List Byte) (as : List SinkAnswer)
    (h : s.text.length ≤ n.toNat) :
    resumeSend (.awaitText d ty n s.text) (offerAnswers as (offerText more
        { s with text := [], sending := some (.awaitText d ty n s.text) })) =
      exec (.sendText d ty n) (offerAnswers as (offerText more s)) :=
  (collectText_ignores_sending d ty n s.text { offerAnswers as s with text := more } _).trans
    (collectText_split (s := offerAnswers as s) h)

/-- A SENDTEXT that waits for the transport goes on as if the answers given since had been there from the start, and
text offered since stays on the channel (R106). -/
theorem sendText_resumes_transmit {d ty : Byte} {n : Half} {s : State} {f : List Byte} {k : Nat} (more : List Byte)
    (as : List SinkAnswer) (hf : f = textFrame s.cfg d ty (s.text.take n.toNat)) (hn : n.toNat ≤ s.text.length)
    (hl : f.length ≤ s.cfg.scratchCap) (hk : k < f.length) (hs : s.sink = List.replicate k .take) :
    resumeSend (.transmit f k) (offerAnswers as (offerText more
        (transmit f 0 { s with text := s.text.drop n.toNat, scratch := s.scratch.writeFrom 0 f }))) =
      exec (.sendText d ty n) (offerAnswers as (offerText more s)) := by
  have htake : (s.text ++ more).take n.toNat = s.text.take n.toNat := List.take_append_of_le_length hn
  have hdrop : (s.text ++ more).drop n.toNat = s.text.drop n.toNat ++ more := List.drop_append_of_le_length hn
  have hresume := transmit_resumes (s := { offerAnswers as s with
    text := s.text.drop n.toNat ++ more, scratch := s.scratch.writeFrom 0 f }) hk.le (congrArg (· ++ as) hs)
  rw [transmit_stalls hk (by exact hs), exec_sendText_ready (by simp; omega) (by simpa [htake, ← hf] using hl)]
  simp only [offerAnswers_cfg, offerText_cfg, offerAnswers_text, offerText_text, offerAnswers_scratch,
    offerText_scratch, htake, hdrop, ← hf]
  exact congrArg _ ((transmit_ignores_sending ..).trans hresume)

/-! ## The end of a POLL in HeaderValid, whatever TREM is -/

theorem pollTrailing_completes {s : State} {p : List Byte} {c : Byte} {rest : List Byte}
    (hl : s.trem.toNat ≤ s.q.length) (hq : s.q = p ++ c :: rest) (hp : p.length = s.plen.toNat) :
    pollTrailing s = .next (finishFrame { s with
      payload := s.payload.writeFrom 0 p, chkByte := c, csum := addToSum s.csum (p ++ [c]), q := rest }) := by
  simp only [pollTrailing, Nat.not_lt.2 hl, if_false, consumeTrailing_next hq hp]

theorem pollTrailing_empty {s : State} (hl : s.trem.toNat ≤ s.q.length) (hp : s.q.length ≤ s.plen.toNat) :
    pollTrailing s = .fault .popOnEmpty := by
  simp only [pollTrailing, Nat.not_lt.2 hl, if_false, consumeTrailing, List.drop_eq_nil_of_le hp]

/-! ## States that no response tells apart: each operation keeps the agreement (R38, U2) -/

section Operations

variable {s t : State}

theorem Agree.respond (h : Agree s t) (st : Status) (v a : Word) (bs : List Byte) :
    Agree (respond st v a bs s) (respond st v a bs t) :=
  { h with rsp := congrArg (· ++ _) h.rsp }

theorem Agree.respondAnyValue (h : Agree s t) (st : Status) (a : Word) :
    Agree (respondAnyValue st a s) (respondAnyValue st a t) := by
  unfold Machine.respondAnyValue
  rw [h.freeCount]
  exact { h.respond st _ a [] with freeCount := rfl }

theorem Agree.raise (h : Agree s t) (st : Status) : Agree (raise st s) (raise st t) := by
  unfold Machine.raise
  rw [h.freeCount]
  exact { h.respond st _ _ [] with freeCount := rfl }

theorem Agree.with_inputs (h : Agree s t) (es : List Event) : Agree { s with inputs := es } { t with inputs := es } :=
  { h with inputs := rfl }

theorem Agree.with_q (h : Agree s t) {l l' : List Byte} (hl : l = l') : Agree { s with q := l } { t with q := l' } :=
  { h with q := hl }

theorem Agree.ringAppend (h : Agree s t) (b : Byte) : Agree (ringAppend b s) (ringAppend b t) :=
  h.with_q (by rw [h.q, h.cfg])

theorem Agree.teardown (h : Agree s t) : Agree (teardown s) (teardown t) :=
  { h with q := rfl, pstate := rfl, pktValid := rfl, header := nofun, packet := nofun }

/-- A resync stays in SearchingHeader with the window closed, where no header register is compared (R82). -/
theorem Agree.resync (h : Agree s t) (hp : s.pstate = .searchingHeader) (rest : List Byte) :
    Agree (resync { s with pktValid := false, csum := 0, q := rest })
      (resync { t with pktValid := false, csum := 0, q := rest }) :=
  { h with
    q := rfl, pktValid := rfl, resyncCnt := congrArg (· + 1) h.resyncCnt
    header := fun hv => absurd (hp.symm.trans hv) nofun, packet := nofun }

/-- The free values a power-on reset draws are the same, because as many were drawn before (R121, log 4). -/
theorem Agree.powerOn (h : Agree s t) : Agree (powerOn s) (powerOn t) :=
  { h with
    q := rfl, pstate := rfl, pktValid := rfl, resyncCnt := rfl, sending := rfl
    freeCount := congrArg (· + 7) h.freeCount, header := nofun, packet := nofun }

theorem Agree.close (h : Agree s t) : Agree { s with pktValid := false } { t with pktValid := false } :=
  { h with pktValid := rfl, packet := nofun }

/-- A header just read gives both the same header registers (R81). -/
theorem Agree.headerRead (h : Agree s t) (d sr ty c : Byte) (pl : Half) (tr : TrailCount) (l : List Byte) :
    Agree
      { s with
        pktValid := false, csum := c, dest := d, src := sr, typ := ty, plen := pl, trem := tr,
        pstate := .headerValid, q := l }
      { t with
        pktValid := false, csum := c, dest := d, src := sr, typ := ty, plen := pl, trem := tr,
        pstate := .headerValid, q := l } :=
  { h with
    q := rfl, pstate := rfl, pktValid := rfl, header := fun _ => ⟨rfl, rfl, rfl, rfl, rfl, rfl⟩, packet := nofun }

/-- Frames completed from the same header with the same bytes: the packets agree below PLEN, where both Payloads were
written (R83). -/
theorem Agree.complete (h : Agree s t) (hp : s.pstate = .headerValid) (hs : s.payload.wf = true)
    (ht : t.payload.wf = true) {p : List Byte} (hlen : p.length = s.plen.toNat) (c : Byte) (rest : List Byte) :
    Agree
      (finishFrame { s with
        payload := s.payload.writeFrom 0 p, chkByte := c, csum := addToSum s.csum (p ++ [c]), q := rest })
      (finishFrame { t with
        payload := t.payload.writeFrom 0 p, chkByte := c, csum := addToSum t.csum (p ++ [c]), q := rest }) := by
  obtain ⟨hd, hsr, hty, hpl, -, hcs⟩ := h.header hp
  unfold finishFrame
  have hacc : accepts { s with
        payload := s.payload.writeFrom 0 p, chkByte := c, csum := addToSum s.csum (p ++ [c]), q := rest } =
      accepts { t with
        payload := t.payload.writeFrom 0 p, chkByte := c, csum := addToSum t.csum (p ++ [c]), q := rest } := by
    simp only [accepts, hd, hcs, h.cfg]
  rw [hacc]
  refine Agree.respond ?_ ..
  refine { h with q := rfl, pstate := rfl, pktValid := rfl, header := nofun, packet := fun _ => ?_ }
  refine ⟨hd, hsr, hty, hpl, fun j hj => ?_⟩
  have hj' : j < p.length := hlen ▸ hj
  exact ((Memory.read_writeFrom_zero hs p j).trans (dif_pos hj')).trans
    ((Memory.read_writeFrom_zero ht p j).trans (dif_pos hj')).symm

/-! ## Each command keeps the agreement -/

/-- What is gated by PKT_VALID is gated alike (R87). -/
theorem Agree.gated (h : Agree s t) {a a' b b' : Host.Outcome State Fault Refusal}
    (hopen : s.pktValid = true → AgreeOutcome a a') (hclosed : AgreeOutcome b b') :
    AgreeOutcome (if s.pktValid then a else b) (if t.pktValid then a' else b') := by
  rw [← h.pktValid]
  split
  · exact hopen ‹_›
  · exact hclosed

/-- The trailing part of POLL compares Q with TREM and PLEN, which a held header makes the same (R80). -/
theorem Agree.pollTrailing (h : Agree s t) (hp : s.pstate = .headerValid) (hs : s.payload.wf = true)
    (ht : t.payload.wf = true) : AgreeOutcome (pollTrailing s) (pollTrailing t) := by
  obtain ⟨-, -, -, hpl, htr, -⟩ := h.header hp
  rcases pollTrailing_cases s with ⟨hl, hw⟩ | ⟨hl, p, c, rest, hq, hlen, hw⟩ | ⟨hl, hl2, hw⟩ <;> rw [hw]
  · rw [h.q, htr] at hl
    rw [pollTrailing_wait hl]
    exact h.respond ..
  · rw [h.q, htr] at hl
    rw [pollTrailing_completes hl (h.q ▸ hq) (hpl ▸ hlen)]
    exact h.complete hp hs ht hlen c rest
  · rw [h.q, htr] at hl
    rw [h.q, hpl] at hl2
    rw [pollTrailing_empty hl hl2]
    rfl

theorem Agree.poll (h : Agree s t) (hs : s.payload.wf = true) (ht : t.payload.wf = true) :
    AgreeOutcome (exec .poll s) (exec .poll t) := by
  rcases exec_poll_cases s with ⟨hp, hl, hw⟩ | ⟨hp, b, rest, hq, hl, hb, hw⟩ | ⟨hp, b, rest, hq, hl, hb, hw⟩ |
    ⟨hp, d, sr, ty, hi, lo, rest, hq, hw⟩ | ⟨hp, hw⟩ <;> rw [hw] <;> have htp := h.pstate.symm.trans hp
  · rw [exec_poll_notYet htp (detectHeader_short (h.q ▸ hl))]
    exact h.close.respond ..
  · rw [exec_poll_notYet htp (detectHeader_badFirst (h.q ▸ hq) hl hb)]
    exact (h.resync hp rest).respond ..
  · rw [exec_poll_notYet htp (detectHeader_badSecond (h.q ▸ hq) hl hb)]
    exact (h.resync hp rest).respond ..
  · rw [exec_poll_ready htp (detectHeader_ready (h.q ▸ hq))]
    exact (h.headerRead d sr ty _ _ _ rest).pollTrailing rfl hs ht
  · rw [exec_poll_headerValid htp]
    exact h.close.pollTrailing hp hs ht

theorem Agree.buildHdr (h : Agree s t) (d ty : Byte) (n : Half) :
    AgreeOutcome (exec (.buildHdr d ty n) s) (exec (.buildHdr d ty n) t) := by
  have hcap : s.cfg.scratchCap = t.cfg.scratchCap := congrArg _ h.cfg
  have hhdr : headerBytes s.cfg d ty n = headerBytes t.cfg d ty n := by rw [h.cfg]
  have hscratch (m m' : Memory) : Agree { s with scratch := m } { t with scratch := m' } := { h with }
  rcases exec_buildHdr_cases d ty n s with ⟨hl, hw⟩ | ⟨hl, hw⟩ <;>
    rcases exec_buildHdr_cases d ty n t with ⟨hl', hw'⟩ | ⟨hl', hw'⟩ <;> rw [hw, hw']
  · rw [hhdr]; exact (hscratch ..).respond ..
  · omega
  · omega
  · rfl

/-- Transmission reads the outbound channel alone (R106, R108). -/
theorem Agree.transmit (h : Agree s t) (f : List Byte) (k : Nat) : Agree (transmit f k s) (transmit f k t) := by
  have hout (x : Option Sending) (as : List SinkAnswer) (o : List Byte) :
      Agree { s with txOut := s.txOut ++ o, sink := as, sending := x }
        { t with txOut := t.txOut ++ o, sink := as, sending := x } :=
    { h with txOut := congrArg (· ++ o) h.txOut, sink := rfl, sending := rfl }
  simp only [Machine.transmit, h.sink]
  split_ifs
  · exact (hout ..).respond ..
  · exact hout ..
  · exact (hout ..).respond ..

/-- The text phase reads the text channel and the parameters, and writes what it took (R105, R108). -/
theorem Agree.collectText (h : Agree s t) (d ty : Byte) (n : Half) (taken : List Byte) :
    AgreeOutcome (collectText d ty n taken s) (collectText d ty n taken t) := by
  simp only [Machine.collectText, writeScratch, h.text, h.cfg]
  split_ifs
  · exact { h with cfg := rfl, text := rfl, sending := rfl }
  · refine Agree.transmit ?_ ..
    exact { h with cfg := rfl, text := rfl }
  · rfl

theorem Agree.exec (h : Agree s t) (hs : s.payload.wf = true) (ht : t.payload.wf = true) (i : Instr) :
    AgreeOutcome (exec i s) (exec i t) := by
  cases i with
  | append v => exact (h.ringAppend v).respond ..
  | retrieve =>
    cases hq : s.q with
    | nil => rw [exec_retrieve_nil hq, exec_retrieve_nil (h.q ▸ hq)]; exact h.raise _
    | cons b rest =>
      rw [exec_retrieve_cons hq, exec_retrieve_cons (h.q ▸ hq)]
      exact (h.with_q rfl).respond ..
  | peek =>
    cases hq : s.q with
    | nil => rw [exec_peek_nil hq, exec_peek_nil (h.q ▸ hq)]; exact h.raise _
    | cons b rest => rw [exec_peek_cons hq, exec_peek_cons (h.q ▸ hq)]; exact h.respond ..
  | readUpTo n => rw [exec_readUpTo, exec_readUpTo, h.q]; exact (h.with_q (by rw [h.q])).respond ..
  | available => rw [exec_available, exec_available, h.q]; exact h.respond ..
  | rbReset => exact (h.with_q rfl).respond ..
  | poll => exact h.poll hs ht
  | getDest =>
    exact h.gated (fun hv => by rw [(h.packet hv).1]; exact h.respond ..) (h.respondAnyValue ..)
  | getSrc =>
    exact h.gated (fun hv => by rw [(h.packet hv).2.1]; exact h.respond ..) (h.respondAnyValue ..)
  | getType =>
    exact h.gated (fun hv => by rw [(h.packet hv).2.2.1]; exact h.respond ..) (h.respondAnyValue ..)
  | getLen =>
    exact h.gated (fun hv => by rw [(h.packet hv).2.2.2.1]; exact h.respond ..) (h.respondAnyValue ..)
  | getPay n =>
    refine h.gated (fun hv => ?_) (h.respondAnyValue ..)
    obtain ⟨-, -, -, hpl, hpay⟩ := h.packet hv
    rw [← hpl]
    split_ifs with hn
    · exact h.respondAnyValue ..
    · rw [payByte, payByte, hpay _ (by omega)]; exact h.respond ..
  | getResync => rw [exec_getResync, exec_getResync, h.resyncCnt]; exact h.respond ..
  | getStat =>
    have hw : statWord s = statWord t := by rw [statWord, statWord, h.pktValid, h.pstate]
    rw [exec_getStat, exec_getStat, hw]; exact h.respond ..
  | clear => exact h.teardown.respond ..
  | parseS8 n =>
    refine h.gated (fun hv => ?_) (h.raise _)
    obtain ⟨-, -, -, hpl, hpay⟩ := h.packet hv
    rw [← hpl]
    split_ifs with hn
    · exact h.respondAnyValue ..
    · rw [payByte, payByte, hpay _ (by omega)]; exact h.respond ..
  | parseDup n =>
    refine h.gated (fun hv => ?_) (h.raise _)
    obtain ⟨-, -, -, hpl, hpay⟩ := h.packet hv
    rw [← hpl]
    split_ifs with hn
    · exact h.respondAnyValue ..
    · have hhalf (j : Nat) (hj : j + 1 < s.plen.toNat) : payHalf s j = payHalf t j := by
        rw [payHalf, payHalf, hpay _ hj, hpay _ (Nat.lt_of_succ_lt hj)]
      rw [hhalf _ (by omega), hhalf _ (by omega)]; exact h.respond ..
  | sext w n =>
    rcases em (w.toNat < 1 ∨ 16 < w.toNat) with hw | hw
    · rw [exec_sext_illegal hw, exec_sext_illegal hw]; exact h.raise _
    · rw [exec_sext_legal (by omega), exec_sext_legal (by omega)]; exact h.respond ..
  | buildHdr d ty n => exact h.buildHdr d ty n
  | sendText d ty n => exact h.collectText d ty n []

theorem Agree.runCommand (h : Agree s t) (hs : s.payload.wf = true) (ht : t.payload.wf = true) (w : CmdWord) :
    AgreeOutcome (runCommand w s) (runCommand w t) := by
  cases hd : decode w with
  | ok i => rw [runCommand_ok hd, runCommand_ok hd]; exact h.exec hs ht i
  | error e => rw [runCommand_error hd, runCommand_error hd]; exact h.raise _

theorem Agree.resumeSend (h : Agree s t) (p : Sending) : AgreeOutcome (resumeSend p s) (resumeSend p t) := by
  cases p with
  | awaitText d ty n taken => exact h.collectText d ty n taken
  | transmit f k => exact h.transmit f k

/-! ## Every step, and so every run, keeps the agreement -/

theorem Agree.step (h : Agree s t) (hs : s.payload.wf = true) (ht : t.payload.wf = true) :
    AgreeOutcome (step s) (step t) := by
  by_cases hr : ∃ rest, s.inputs = .powerOn :: rest
  · obtain ⟨rest, hi⟩ := hr
    rw [step_powerOn hi, step_powerOn (h.inputs ▸ hi)]
    exact (h.with_inputs rest).powerOn
  cases hp : s.sending with
  | some p =>
    have hr' := not_exists.1 hr
    rw [step_sending hp hr', step_sending (h.sending ▸ hp) (h.inputs ▸ hr')]
    exact h.resumeSend p
  | none =>
    have hp' := h.sending.symm.trans hp
    cases hi : s.inputs with
    | nil =>
      rw [step_idle hi hp, step_idle (h.inputs ▸ hi) hp']
      exact h
    | cons e rest =>
      have hi' := h.inputs.symm.trans hi
      have hrest := h.with_inputs rest
      cases e with
      | powerOn => exact absurd ⟨rest, hi⟩ hr
      | command w =>
        rw [step_command hi hp, step_command hi' hp']
        exact hrest.runCommand hs ht w
      | rx b =>
        rw [step_rx hi hp, step_rx hi' hp']
        exact hrest.ringAppend b
      | clear =>
        rw [step_clear hi hp, step_clear hi' hp']
        exact hrest.teardown

end Operations

/-- Runs from states with the invariant that agree end in states that agree. -/
theorem Agree.run {s t : State} (h : Agree s t) (hs : Inv s) (ht : Inv t) (k : Nat) :
    ∃ s' t', Sys2Proof.core.run k s = .next s' ∧ Sys2Proof.core.run k t = .next t' ∧ Agree s' t' := by
  induction k generalizing s t with
  | zero => exact ⟨s, t, rfl, rfl, h⟩
  | succ k ih =>
    obtain ⟨s1, hs1⟩ := step_goes_on hs
    obtain ⟨t1, ht1⟩ := step_goes_on ht
    have h1 := h.step hs.payload.1 ht.payload.1
    rw [hs1, ht1] at h1
    rw [run_next hs1, run_next ht1]
    exact ih h1 (step_keeps_inv hs hs1) (step_keeps_inv ht ht1)

/-- Power-on states with the same parameters and ports agree: what R38 leaves open is not compared. -/
theorem PowerOnState.agree {s t : State} (hs : PowerOnState s) (ht : PowerOnState t) (hcfg : s.cfg = t.cfg)
    (hinputs : s.inputs = t.inputs) (htext : s.text = t.text) (hsink : s.sink = t.sink) (hrsp : s.rsp = t.rsp)
    (htx : s.txOut = t.txOut) (hfree : s.freeCount = t.freeCount) : Agree s t where
  cfg := hcfg
  q := hs.ring.trans ht.ring.symm
  pstate := hs.parser.trans ht.parser.symm
  pktValid := hs.closed.trans ht.closed.symm
  resyncCnt := hs.counter.trans ht.counter.symm
  sending := hs.idle.trans ht.idle.symm
  inputs := hinputs
  text := htext
  sink := hsink
  rsp := hrsp
  txOut := htx
  freeCount := hfree
  header := fun hv => absurd (hs.parser.symm.trans hv) nofun
  packet := fun hv => absurd (hs.closed.symm.trans hv) nofun

end Sys2Proof.Machine

/-! ## The obligations -/

namespace Sys2Proof.Proofs

open Sys2Proof Sys2Proof.Machine

/-- Settles O9: the step is `powerOn`, whose free values are the values asked for. -/
theorem powerOnResetSetsWhatIsStated : Obligations.PowerOnResetSetsWhatIsStated :=
  fun _ _ h => ⟨_, _, _, _, _, _, _, _, _, _, step_powerOn h⟩

/-- Settles O11: the step continues the SENDTEXT, which leaves the events and the receive side. -/
theorem portsAreHeldOffWhileSending : Obligations.PortsAreHeldOffWhileSending := by
  intro s t p hs hp h
  rw [step_sending hs hp] at h
  obtain ⟨hi, hr, -⟩ := resumeSend_keeps h
  exact ⟨hi, hr⟩

/-- Settles O23: the header is read, and the wait is for TREM bytes; its registers are the numbers stated. -/
theorem pollTakesHeaderAndWaits : Obligations.PollTakesHeaderAndWaits := by
  intro s d sr ty hi lo rest hp hq hl
  rw [exec_poll_headerRead hp hq (by rw [bigEndian_toNat]; exact hl), trem_eq_ofNat, bigEndian_eq_ofNat,
    addToSum_eq_ofNat]
  simp [respond, sync0, sync1]

/-- Settles O40, from the value's two bits; that both are set contradicts the invariant's window. -/
theorem getStatReturnsStateAndWindow : Obligations.GetStatReturnsStateAndWindow := by
  intro s
  obtain ⟨hb, hv⟩ := statWord_bits s
  refine ⟨statWord s, exec_getStat s, ?_, ?_, ?_, statWord_ne_three⟩
  · rw [statWord_toNat]
    have h1 := s.pktValid.toNat_le
    have h2 := s.pstate.bit.toNat_le
    omega
  · rw [hb]; exact PState.bit_eq_true_iff _
  · rw [hv]

/-- Settles O27, by the kind of step; only POLL can enter HeaderValid, and then by a whole header. -/
theorem parserStateChangesOnlyAsTabulated : Obligations.ParserStateChangesOnlyAsTabulated := by
  intro s t h
  rcases step_kinds s with hp | hc | ⟨rest, hr⟩ | ⟨hp, hc, hr⟩
  · refine ⟨.inr (.inl hp), fun hs ht => ⟨hp, ?_⟩⟩
    obtain ⟨rest, hst⟩ := hp.step_eq
    rw [hst] at h
    exact poll_enters_headerValid (s := { s with inputs := rest }) hs h ht
  · obtain ⟨hs, -, -⟩ := hc.step_spec h
    refine ⟨.inr (.inr ⟨hs, hc.elim .inl fun hc => .inr (.inl hc)⟩), fun _ ht => ?_⟩
    rw [hs] at ht; cases ht
  · rw [step_powerOn hr] at h; cases h
    exact ⟨.inr (.inr ⟨rfl, .inr (.inr ⟨rest, hr⟩)⟩), fun _ ht => absurd ht nofun⟩
  · have hs := (step_sameParser hp hc hr h).pstate
    refine ⟨.inl hs, fun h0 ht => ?_⟩
    rw [hs, h0] at ht; cases ht

/-- Settles O28, by the kind of step: only POLL counts, and only at a resync. -/
theorem resyncCounterCountsResyncsOnly : Obligations.ResyncCounterCountsResyncsOnly := by
  intro s t h
  rcases step_kinds s with hp | hc | ⟨rest, hr⟩ | ⟨hp, hc, hr⟩
  · obtain ⟨rest, hst⟩ := hp.step_eq
    rw [hst] at h
    rcases poll_resyncCnt h with hk | ⟨hk, hs, hl, hq⟩
    · exact .inl ⟨hk, hp.not_powerOn⟩
    · exact .inr (.inr ⟨hk, hp, hs, hl, hq⟩)
  · exact .inl ⟨(hc.step_spec h).2.2, hc.not_powerOn⟩
  · rw [step_powerOn hr] at h; cases h
    exact .inr (.inl ⟨⟨rest, hr⟩, rfl⟩)
  · exact .inl ⟨(step_sameParser hp hc hr h).resyncCnt, hr⟩

/-- Settles O29: a POLL answers as it leaves the window, teardown and power-on close it, every other step keeps it. -/
theorem packetWindowOpensAndCloses : Obligations.PacketWindowOpensAndCloses := by
  intro s t h
  refine ⟨fun hp => ?_, fun hcr => ?_, fun hp hc => ?_⟩
  · obtain ⟨rest, hst⟩ := hp.step_eq
    rw [hst] at h
    exact (poll_answers h :)
  · rcases or_assoc.2 hcr with hc | ⟨rest, hr⟩
    · obtain ⟨-, hv, -⟩ := TearsDown.step_spec hc h
      exact hv
    · rw [step_powerOn hr] at h; cases h; rfl
  · obtain ⟨hc, hr⟩ := not_or.1 (mt or_assoc.1 hc)
    exact (step_sameParser hp hc (not_exists.1 hr) h).pktValid

/-- Settles O34: every step keeps the header held. -/
theorem overlongHeaderIsHeldUntilClear : Obligations.OverlongHeaderIsHeldUntilClear := by
  intro s hinv hp hcap hrel k t ht
  have h : HeldHeader s.trem t := run_keeps (fun _ _ h => h.step) k ⟨hinv, hp, rfl, hcap, hrel⟩ ht
  exact ⟨h.pstate, h.trem_eq, h.short, h.poll⟩

/-- Settles O35: every step keeps the parser searching over the small ring. -/
theorem smallRingNeverDetects : Obligations.SmallRingNeverDetects := by
  intro s hinv hcap hp k t ht
  have h : SmallRing t := run_keeps (fun _ _ h => h.step) k ⟨hinv, hp, hcap⟩ ht
  exact ⟨h.pstate, h.short, h.poll⟩

/-- Settles O46: the text phase stages the wire frame, and the transport takes all of it. -/
theorem sendTextSendsWholeFrame : Obligations.SendTextSendsWholeFrame := by
  intro s d ty n as hc hm hn f hs
  obtain ⟨hin, hout⟩ := scratch_frame_cells hm f
  refine ⟨s.scratch.writeFrom 0 f, ?_, wireFrame_length hn d ty, hin, hout⟩
  rw [exec_sendText_transmits hc hn, transmit_all (by exact hs)]; rfl

/-- Settles O47: the text phase stages the wire frame, and the transport breaks after k bytes of it. -/
theorem sendTextReportsBrokenTransport : Obligations.SendTextReportsBrokenTransport := by
  intro s d ty n k as hc hm hn f hk hs
  refine ⟨s.scratch.writeFrom 0 f, ?_, scratch_frame_cells hm f⟩
  rw [exec_sendText_transmits hc hn, transmit_broken hk (by exact hs)]; rfl

/-- Settles O48: text that is missing, and a transport that stalls after k bytes of the staged frame. -/
theorem sendTextWaitsForTextAndTransport : Obligations.SendTextWaitsForTextAndTransport := by
  intro s d ty n hc hm
  refine ⟨fun hn => collectText_waits (taken := []) (by simpa using hn), fun hn => ?_⟩
  intro f k hk hs
  refine ⟨s.scratch.writeFrom 0 f, ?_, scratch_frame_cells hm f⟩
  rw [exec_sendText_transmits hc hn, transmit_stalls hk (by exact hs)]

/-- Settles O49: a step in which a SENDTEXT is in progress resumes it; whether it waited for text or for the transport,
what it takes in two parts it takes as one. -/
theorem waitingSendTextResumesUnchanged : Obligations.WaitingSendTextResumesUnchanged := by
  refine ⟨fun v p hs hp => step_sending hs hp, fun s u d ty n p more as h hp => ?_⟩
  rw [exec_sendText] at h
  rcases collectText_cases d ty n [] s with ⟨hn, hw⟩ | ⟨hn, hl, hw⟩ | ⟨-, -, hw⟩ <;> rw [hw] at h <;> cases h
  · cases hp
    exact sendText_resumes_text d ty n s more as (by simpa using hn.le)
  · obtain ⟨k, hk, hs, rfl⟩ := transmit_waiting hp
    exact sendText_resumes_transmit more as rfl (by simpa using hn) hl hk hs

/-- Settles O59: such power-on states agree, and runs keep the agreement, which compares all that is asked for. -/
theorem powerOnValuesAreNeverObserved : Obligations.PowerOnValuesAreNeverObserved := by
  intro s t k hs ht hcfg hinputs htext hsink hrsp htx hfree
  obtain ⟨s', t', hs', ht', h⟩ := (hs.agree ht hcfg hinputs htext hsink hrsp htx hfree).run hs.inv ht.inv k
  exact ⟨s', t', hs', ht', h.rsp, h.txOut, h.q, h.pktValid⟩

/-- Settles O60, by the event or the SENDTEXT that both steps take. -/
theorem stepKeepsAgreement : Obligations.StepKeepsAgreement :=
  fun _ _ hs ht h => h.step hs ht

end Sys2Proof.Proofs

/-! PROOFS of the family 20_memory: the ring under a run of RETRIEVEs and under any step, and the order of events.

That bytes only leave the ring at its old end is said with `<:+`, "is a last part of", which composes over the parts of
a POLL. -/

namespace Sys2Proof.Machine

/-! ## A run of RETRIEVEs -/

theorem execAll_cons_next {i : Instr} {s t : State} (h : exec i s = .next t) (is : List Instr) :
    execAll (i :: is) s = execAll is t := by
  simp only [execAll, h]

/-- One RETRIEVE for each byte of a first part of the ring takes that part, and answers its bytes in order (R72). -/
theorem execAll_retrieve {s : State} {l rest : List Byte} (h : s.q = l ++ rest) :
    execAll (List.replicate l.length .retrieve) s = .next { s with
      q := rest, rsp := s.rsp ++ l.map (fun b => ⟨.ok, zextByte b, 0, []⟩) } := by
  induction l generalizing s with
  | nil =>
    have hs : s = { s with q := rest, rsp := s.rsp ++ [] } := by rw [List.append_nil, ← List.nil_append rest, ← h]
    exact congrArg Host.Outcome.next hs
  | cons b l ih =>
    rw [List.length_cons, List.replicate_succ, execAll_cons_next (exec_retrieve_cons h), ih rfl]
    simp [respond]

/-! ## What each step does to the ring -/

/-- An append leaves the old ring but perhaps its oldest byte, and then the new byte (R40, R41, R71). -/
theorem ringAppend_q_drop (b : Byte) (s : State) : ∃ k, (ringAppend b s).q = s.q.drop k ++ [b] := by
  rw [ringAppend_q]
  split
  · exact ⟨1, rfl⟩
  · exact ⟨0, rfl⟩

theorem Answered.q_eq {s t : State} (h : Answered s t) : t.q = s.q := by
  obtain ⟨st, v, a, bs, k, rfl, -⟩ := h
  rfl

/-- POLL's trailing part takes bytes at the old end, or none (R83). -/
theorem pollTrailing_q_suffix {s t : State} (h : pollTrailing s = .next t) : t.q <:+ s.q := by
  rcases pollTrailing_cases s with ⟨-, hw⟩ | ⟨-, p, c, rest, hq, -, hw⟩ | ⟨-, -, hw⟩ <;> rw [hw] at h <;> cases h
  · exact List.suffix_rfl
  · exact ⟨p ++ [c], by simp [hq]⟩

/-- POLL takes bytes at the old end: a bad sync byte and what resync discards, or a header and then its trailing
bytes (R81, R82, R83). -/
theorem poll_q_suffix {s t : State} (h : exec .poll s = .next t) : t.q <:+ s.q := by
  rcases exec_poll_cases s with ⟨-, -, hw⟩ | ⟨-, b, rest, hq, -, -, hw⟩ | ⟨-, b, rest, hq, -, -, hw⟩ |
    ⟨-, d, sr, ty, hi, lo, rest, hq, hw⟩ | ⟨-, hw⟩ <;> rw [hw] at h
  case inr.inr.inr.inl =>
    have hrest : rest <:+ s.q := ⟨[sync0, sync1, d, sr, ty, hi, lo], hq.symm⟩
    exact (pollTrailing_q_suffix h).trans hrest
  case inr.inr.inr.inr => exact (pollTrailing_q_suffix h :)
  all_goals cases h
  · exact List.suffix_rfl
  · have hrest : rest <:+ s.q := ⟨[b], hq.symm⟩
    exact (List.dropWhile_suffix _).trans hrest
  · have hrest : rest <:+ s.q := ⟨[sync0, b], hq.symm⟩
    exact (List.dropWhile_suffix _).trans hrest

/-- A command takes bytes at the ring's old end, or is the APPEND of one byte. -/
theorem exec_q {i : Instr} {s t : State} (h : exec i s = .next t) :
    t.q <:+ s.q ∨ ∃ b, i = .append b ∧ t.q = (ringAppend b s).q := by
  rcases instr_shapes i with rfl | ⟨d, ty, n, rfl⟩ | ⟨d, ty, n, rfl⟩ | ⟨h1, h2, h3⟩
  · exact .inl (poll_q_suffix h)
  · exact .inl ((buildHdr_keeps h).2.1.q ▸ List.suffix_rfl)
  · exact .inl ((collectText_keeps h).2.1.q ▸ List.suffix_rfl)
  · obtain ⟨t', ht', ha⟩ := exec_simple i s h1 h2 h3
    rw [h] at ht'; cases ht'
    rcases ha with ha | ⟨k, ha⟩ | ⟨b, hb, ha⟩ | ⟨-, ha⟩
    · exact .inl (ha.q_eq ▸ List.suffix_rfl)
    · exact .inl (ha.q_eq ▸ List.drop_suffix k s.q)
    · exact .inr ⟨b, hb, ha.q_eq⟩
    · exact .inl (ha.q_eq ▸ List.nil_suffix)

/-- The next step brings this byte to the ring: an APPEND of it, or its transfer on the RX channel (R30, R71). -/
def BringsByte (b : Byte) (s : State) : Prop :=
  TakesCommand (.append b) s ∨ ∃ rest, s.inputs = .rx b :: rest ∧ s.sending = none

/-- A step takes bytes at the ring's old end, or appends the byte it brings. -/
theorem step_q {s t : State} (h : step s = .next t) :
    t.q <:+ s.q ∨ ∃ b, BringsByte b s ∧ t.q = (ringAppend b s).q := by
  rcases step_cases s with ⟨rest, -, hst⟩ | ⟨p, -, -, hst⟩ | ⟨-, -, hst⟩ | ⟨hs, w, rest, i, hi, hd, hst⟩ |
    ⟨-, w, rest, e, -, -, hst⟩ | ⟨hs, b, rest, hi, hst⟩ | ⟨-, rest, -, hst⟩ <;> rw [hst] at h
  case inr.inl => exact .inl ((resumeSend_keeps h).2.1.q ▸ List.suffix_rfl)
  case inr.inr.inr.inl =>
    rcases exec_q h with hq | ⟨b, rfl, hq⟩
    · exact .inl hq
    · exact .inr ⟨b, .inl ⟨w, rest, hi, hs, hd⟩, hq⟩
  all_goals cases h
  · exact .inl List.nil_suffix
  · exact .inl List.suffix_rfl
  · exact .inl List.suffix_rfl
  · exact .inr ⟨b, .inr ⟨rest, hi, hs⟩, rfl⟩
  · exact .inl List.nil_suffix

end Sys2Proof.Machine

/-! ## The obligations -/

namespace Sys2Proof.Proofs

open Sys2Proof Sys2Proof.Machine

/-- Settles O10, from what a step does to the inputs and from the step that finds nothing to do. -/
theorem stepTakesEventsInOrder : Obligations.StepTakesEventsInOrder :=
  ⟨fun _ _ h => step_inputs h, fun _ hi hs => step_idle hi hs⟩

/-- Settles O16: the k RETRIEVEs take the first k bytes of Q, which is the part READUPTO drops and answers. -/
theorem readUpToIsSuccessiveRetrieves : Obligations.ReadUpToIsSuccessiveRetrieves := by
  intro n s k
  have hlen : (s.q.take k).length = k := List.length_take_of_le (min_le_right _ _)
  have hrun := execAll_retrieve (s := s) (List.take_append_drop k s.q).symm
  rw [hlen] at hrun
  exact ⟨_, hrun, rfl, exec_readUpTo n s⟩

/-- Settles O20: what is left of Q after bytes leave at its old end is Q without that many, and an append adds last. -/
theorem ringIsFirstInFirstOut : Obligations.RingIsFirstInFirstOut := by
  intro s t h
  rcases step_q h with hq | ⟨b, hb, hq⟩
  · exact ⟨s.q.length - t.q.length, .inl (List.suffix_iff_eq_drop.1 hq)⟩
  · obtain ⟨k, hk⟩ := ringAppend_q_drop b s
    exact ⟨k, .inr ⟨b, hq.trans hk, hb⟩⟩

end Sys2Proof.Proofs

/-! PROOFS of the family 30_encoding: the decoder and the encoder as two readings of a word's fields; frames appended to
the ring, whole or byte by byte, and the POLL that completes them. -/

namespace Sys2Proof

/-! ## The decoder -/

/-- The command with its operands read again from the fields of this word (R62, R64). -/
def Instr.rereadFrom (w : CmdWord) : Instr → Instr
  | .append _ => .append (aField w)
  | .readUpTo _ => .readUpTo (nField w)
  | .getPay _ => .getPay (nField w)
  | .parseS8 _ => .parseS8 (nField w)
  | .parseDup _ => .parseDup (nField w)
  | .sext _ _ => .sext (aField w) (nField w)
  | .buildHdr _ _ _ => .buildHdr (aField w) (bField w) (nField w)
  | .sendText _ _ _ => .sendText (aField w) (bField w) (nField w)
  | i => i

/-- A word with the opcode of a command decodes to that command with the operands the word carries (R64). -/
theorem decode_of_opcode {w : CmdWord} {i : Instr} (h : opField w = opcode i) :
    decode w = .ok (i.rereadFrom w) := by
  cases i <;> simp [decode, h, opcode, Instr.rereadFrom]

theorem opField_encode (i : Instr) : opField (encode i) = opcode i := by
  cases i <;> exact opField_packWord _ _ _ _

/-- The encoder puts each operand where the decoder reads it. -/
theorem rereadFrom_encode (i : Instr) : i.rereadFrom (encode i) = i := by
  cases i <;> simp [Instr.rereadFrom, encode, aField_packWord, bField_packWord, nField_packWord]

theorem decode_encode (i : Instr) : decode (encode i) = .ok i := by
  rw [decode_of_opcode (opField_encode i), rereadFrom_encode]

/-- A decoded command is its own reading of the word. -/
theorem rereadFrom_of_decode {w : CmdWord} {i : Instr} (h : decode w = .ok i) : i.rereadFrom w = i := by
  have hr := decode_of_opcode (Machine.opField_of_decode h)
  exact Except.ok.inj (hr.symm.trans h)

/-- Only the fields its opcode uses enter a command (R63, R64). -/
theorem rereadFrom_congr {v w : CmdWord} (i : Instr) (ha : usesA (opcode i) = true → aField v = aField w)
    (hb : usesB (opcode i) = true → bField v = bField w) (hn : usesN (opcode i) = true → nField v = nField w) :
    i.rereadFrom v = i.rereadFrom w := by
  cases i <;> simp_all [Instr.rereadFrom, usesA, usesB, usesN, opcode]

/-- The word with the fields its opcode does not use set to zero (R63). -/
def canonicalWord (w : CmdWord) : CmdWord :=
  packWord (opField w) (if usesA (opField w) then aField w else 0) (if usesB (opField w) then bField w else 0)
    (if usesN (opField w) then nField w else 0)

theorem encode_rereadFrom {w : CmdWord} {i : Instr} (h : opField w = opcode i) :
    encode (i.rereadFrom w) = canonicalWord w := by
  rw [canonicalWord, h]
  cases i <;> rfl

theorem packWord_inj {op a b op' a' b' : Byte} {n n' : Half} :
    packWord op a b n = packWord op' a' b' n' ↔ op = op' ∧ a = a' ∧ b = b' ∧ n = n' := by
  refine ⟨fun h => ⟨?_, ?_, ?_, ?_⟩, fun ⟨h1, h2, h3, h4⟩ => by rw [h1, h2, h3, h4]⟩
  · simpa only [opField_packWord] using congrArg opField h
  · simpa only [aField_packWord] using congrArg aField h
  · simpa only [bField_packWord] using congrArg bField h
  · simpa only [nField_packWord] using congrArg nField h

/-- A word is canonical exactly if its unused fields are zero, compared field by field. -/
theorem canonicalWord_eq_iff (w : CmdWord) : canonicalWord w = w ↔ unusedFieldsZero w = true := by
  have hfield : ∀ {n : Nat} (u : Bool) (x : BitVec n), (if u then x else 0) = x ↔ (u || x == 0) = true := by
    intro n u x
    cases u
    · simp only [Bool.false_eq_true, if_false, Bool.false_or, beq_iff_eq]; exact eq_comm
    · simp only [if_true, Bool.true_or]
  conv_lhs => rhs; rw [← packWord_fields w]
  rw [canonicalWord, packWord_inj, unusedFieldsZero, Bool.and_eq_true, Bool.and_eq_true, hfield, hfield, hfield]
  simp only [true_and, and_assoc]

/-- The opcodes that R65's ranges leave without a command. -/
def Unassigned (op : Nat) : Prop :=
  op ≤ 0x0F ∨ (0x16 ≤ op ∧ op ≤ 0x1F) ∨ (0x29 ≤ op ∧ op ≤ 0x2F) ∨ (0x33 ≤ op ∧ op ≤ 0x3F) ∨ 0x42 ≤ op

/-- The decoder's last arm is reached exactly in R65's ranges: each of the other arms names an opcode between them. -/
theorem unassigned_iff_decode_error (w : CmdWord) :
    Unassigned (opField w).toNat ↔ decode w = .error (.illegalOpcode (opField w)) := by
  unfold decode Unassigned
  split
  case h_21 =>
    refine iff_of_true ?_ rfl
    simp only [imp_false] at *
    omega
  all_goals exact iff_of_false (by omega) nofun

theorem decode_error_eq {w : CmdWord} {e : DecodeError} (h : decode w = .error e) : e = .illegalOpcode (opField w) := by
  unfold decode at h
  split at h <;> cases h
  rfl

/-- Words with one opcode that agree in the fields it uses decode alike: to that command's reading of either, or to the
error that names the opcode. -/
theorem decode_congr {v w : CmdWord} (hop : opField v = opField w)
    (ha : usesA (opField w) = true → aField v = aField w) (hb : usesB (opField w) = true → bField v = bField w)
    (hn : usesN (opField w) = true → nField v = nField w) : decode v = decode w := by
  cases hw : decode w with
  | ok i =>
    have hi := Machine.opField_of_decode hw
    rw [hi] at hop ha hb hn
    rw [decode_of_opcode hop, rereadFrom_congr i ha hb hn, rereadFrom_of_decode hw]
  | error e =>
    cases decode_error_eq hw
    rw [← unassigned_iff_decode_error, ← hop] at hw
    rw [← hop]
    exact (unassigned_iff_decode_error v).1 hw

end Sys2Proof

namespace Sys2Proof.Machine

/-! ## A byte changed in a frame -/

/-- Changing one byte changes the exact sum by the difference of the two bytes. -/
theorem byteTotal_set {l : List Byte} {o : Nat} (h : o < l.length) (b : Byte) :
    byteTotal (l.set o b) + l[o].toNat = byteTotal l + b.toNat := by
  induction l generalizing o with
  | nil => simp at h
  | cons a l ih =>
    cases o with
    | zero => simp; omega
    | succ o =>
      have := ih (Nat.lt_of_succ_lt_succ h)
      simp only [List.set_cons_succ, byteTotal_cons, List.getElem_cons_succ]
      omega

/-- A frame with one byte changed no longer sums to 0 mod 256: two bytes differ by less than 256 (R97). -/
theorem byteTotal_set_ne_zero {l : List Byte} {o : Nat} {b : Byte} (h : o < l.length) (hb : b ≠ l[o])
    (h0 : byteTotal l % 256 = 0) : byteTotal (l.set o b) % 256 ≠ 0 := by
  have hset := byteTotal_set h b
  have hne : b.toNat ≠ l[o].toNat := mt BitVec.eq_of_toNat_eq hb
  have h1 := b.isLt
  have h2 := l[o].isLt
  omega

/-! ## The wire format of a frame (R57 to R59) -/

/-- The two length bytes of a frame give back its payload's length (R42, R57). -/
theorem bigEndian_length_bytes {n : Nat} (h : n ≤ 65535) :
    (bigEndian (BitVec.ofNat 8 (n / 256)) (BitVec.ofNat 8 (n % 256))).toNat = n := by
  rw [bigEndian_toNat, BitVec.toNat_ofNat, BitVec.toNat_ofNat]
  omega

/-- The checksum byte of a frame (R59). -/
def wireChecksum (d sr ty : Byte) (p : List Byte) : Byte :=
  checksumByte ([sync0, sync1, d, sr, ty, BitVec.ofNat 8 (p.length / 256), BitVec.ofNat 8 (p.length % 256)] ++ p)

/-- A frame is its seven header bytes, its payload and its checksum byte (R58). -/
theorem wireFrame_eq (d sr ty : Byte) (p : List Byte) :
    wireFrame d sr ty p = sync0 :: sync1 :: d :: sr :: ty :: BitVec.ofNat 8 (p.length / 256) ::
      BitVec.ofNat 8 (p.length % 256) :: (p ++ [wireChecksum d sr ty p]) := rfl

theorem length_wireFrame (d sr ty : Byte) (p : List Byte) : (wireFrame d sr ty p).length = p.length + 8 := by
  simp [wireFrame_eq]

/-- Every frame sums to 0 mod 256 (R59). -/
theorem byteTotal_wireFrame (d sr ty : Byte) (p : List Byte) : byteTotal (wireFrame d sr ty p) % 256 = 0 :=
  byteTotal_checksum _

/-- A frame changed outside its sync and length bytes is still a header with the same length bytes, and as many bytes
after it. -/
theorem wireFrame_set_shape (d sr ty b : Byte) (p : List Byte) {o : Nat} (ho : o = 2 ∨ o = 3 ∨ o = 4 ∨ 7 ≤ o) :
    ∃ d' sr' ty' p' c, p'.length = p.length ∧ (wireFrame d sr ty p).set o b =
      sync0 :: sync1 :: d' :: sr' :: ty' :: BitVec.ofNat 8 (p.length / 256) :: BitVec.ofNat 8 (p.length % 256) ::
        (p' ++ [c]) := by
  rw [wireFrame_eq]
  rcases ho with rfl | rfl | rfl | ho
  · exact ⟨b, sr, ty, p, _, rfl, rfl⟩
  · exact ⟨d, b, ty, p, _, rfl, rfl⟩
  · exact ⟨d, sr, b, p, _, rfl, rfl⟩
  · obtain ⟨k, rfl⟩ := Nat.exists_eq_add_of_le' ho
    obtain ⟨p', c, rest, hset, hp'⟩ :=
      split_trailing ((p ++ [wireChecksum d sr ty p]).set k b) p.length (by simp)
    have hrest : rest = [] := by
      have hlen := congrArg List.length hset
      simp only [List.length_set, List.length_append, List.length_cons, List.length_nil] at hlen
      exact List.eq_nil_of_length_eq_zero (by omega)
    rw [hrest] at hset
    exact ⟨d, sr, ty, p', c, hp', by simp only [List.set_cons_succ, hset]⟩

/-! ## The POLL that reads a header, and the one that completes its frame -/

/-- The state in which POLL has read this header, with these bytes left in the ring (R81). -/
def headerRead (d sr ty hi lo : Byte) (rest : List Byte) (s : State) : State :=
  { s with
    pktValid := false, csum := addToSum 0 [sync0, sync1, d, sr, ty, hi, lo], dest := d, src := sr, typ := ty,
    plen := bigEndian hi lo, trem := (bigEndian hi lo).setWidth 17 + 1, pstate := .headerValid, q := rest }

/-- The state in which POLL has consumed these trailing bytes and decided (R83, R84). -/
def frameDone (p : List Byte) (c : Byte) (rest : List Byte) (s : State) : State :=
  finishFrame { s with
    payload := s.payload.writeFrom 0 p, chkByte := c, csum := addToSum s.csum (p ++ [c]), q := rest }

/-- A frame wholly in Q with its first byte at the head completes in one POLL (R80). -/
theorem exec_poll_wholeFrame {s : State} {d sr ty hi lo c : Byte} {p rest : List Byte}
    (hp : s.pstate = .searchingHeader) (hlen : p.length = (bigEndian hi lo).toNat)
    (hq : s.q = sync0 :: sync1 :: d :: sr :: ty :: hi :: lo :: (p ++ c :: rest)) :
    exec .poll s = .next (frameDone p c rest (headerRead d sr ty hi lo (p ++ c :: rest) s)) :=
  (exec_poll_ready hp (detectHeader_ready hq)).trans
    (pollTrailing_complete (s := headerRead d sr ty hi lo (p ++ c :: rest) s) rfl hlen (trem_toNat _))

/-- A held header with its trailing bytes in Q completes in one POLL (R80). -/
theorem exec_poll_heldFrame {s : State} {c : Byte} {p rest : List Byte} (hp : s.pstate = .headerValid)
    (hlen : p.length = s.plen.toNat) (htrem : s.trem.toNat = s.plen.toNat + 1) (hq : s.q = p ++ c :: rest) :
    exec .poll s = .next (frameDone p c rest { s with pktValid := false }) :=
  (exec_poll_headerValid hp).trans (pollTrailing_complete (s := { s with pktValid := false }) hq hlen htrem)

/-- After a whole frame CSUM is 0 exactly if the frame sums to 0 mod 256 (R22, R59). -/
theorem frameDone_csum_eq_zero_iff (d sr ty hi lo c : Byte) (p q rest : List Byte) (s : State) :
    (frameDone p c rest (headerRead d sr ty hi lo q s)).csum = 0 ↔
      byteTotal (sync0 :: sync1 :: d :: sr :: ty :: hi :: lo :: (p ++ [c])) % 256 = 0 := by
  have hsum : (frameDone p c rest (headerRead d sr ty hi lo q s)).csum =
      addToSum 0 ([sync0, sync1, d, sr, ty, hi, lo] ++ (p ++ [c])) := (addToSum_append ..).symm
  rw [hsum, addToSum_eq_zero_iff, show (0 : Byte).toNat = 0 from rfl, Nat.zero_add]
  rfl

/-- A frame that does not sum to 0 mod 256 is consumed and rejected, whatever its destination (R84). -/
theorem exec_poll_rejects {s : State} {d sr ty hi lo c : Byte} {p rest : List Byte}
    (hp : s.pstate = .searchingHeader) (hlen : p.length = (bigEndian hi lo).toNat)
    (hq : s.q = sync0 :: sync1 :: d :: sr :: ty :: hi :: lo :: (p ++ c :: rest))
    (hsum : byteTotal (sync0 :: sync1 :: d :: sr :: ty :: hi :: lo :: (p ++ [c])) % 256 ≠ 0) :
    ∃ t, exec .poll s = .next t ∧ t.pktValid = false ∧ t.pstate = .searchingHeader ∧ t.q = rest ∧
      t.rsp = s.rsp ++ [⟨.ok, 0, 0, []⟩] := by
  have hpoll := exec_poll_wholeFrame hp hlen hq
  rcases poll_answers hpoll with ⟨-, -, -, h0⟩ | ⟨hv, hr⟩
  · exact absurd ((frameDone_csum_eq_zero_iff ..).1 h0) hsum
  · exact ⟨_, hpoll, hv, rfl, rfl, hr⟩

/-- The window is open on a packet of these fields and this payload, and the parser searches on. -/
structure HoldsPacket (d sr ty : Byte) (p : List Byte) (t : State) : Prop where
  pktValid : t.pktValid = true
  pstate : t.pstate = .searchingHeader
  dest : t.dest = d
  src : t.src = sr
  typ : t.typ = ty
  plen : t.plen.toNat = p.length
  payload : ∀ j (h : j < p.length), t.payload.read j = p[j]

/-- A header addressed to MY_ID with trailing bytes that bring the sum to 0 mod 256 gives the frame's packet (R84). -/
theorem frameDone_holdsPacket {s : State} {sr ty hi lo c : Byte} {p q rest : List Byte} (hm : s.payload.wf = true)
    (hlen : p.length = (bigEndian hi lo).toNat)
    (hsum : byteTotal (sync0 :: sync1 :: s.cfg.myId :: sr :: ty :: hi :: lo :: (p ++ [c])) % 256 = 0) :
    HoldsPacket s.cfg.myId sr ty p (frameDone p c rest (headerRead s.cfg.myId sr ty hi lo q s)) where
  pktValid := by
    have h0 := (frameDone_csum_eq_zero_iff s.cfg.myId sr ty hi lo c p q rest s).2 hsum
    exact Bool.and_eq_true_iff.2 ⟨beq_self_eq_true _, beq_iff_eq.2 h0⟩
  pstate := rfl
  dest := rfl
  src := rfl
  typ := rfl
  plen := hlen.symm
  payload := fun j h => (Memory.read_writeFrom_zero hm p j).trans (dif_pos h)

/-- The last response of a completed frame says whether the window is open (R80). -/
theorem frameDone_rsp (p : List Byte) (c : Byte) (rest : List Byte) (s : State) :
    (frameDone p c rest s).rsp = s.rsp ++ [⟨.ok, bitWord (frameDone p c rest s).pktValid, 0, []⟩] := rfl

/-- A frame of the wire format addressed to MY_ID, at the head of Q, is accepted by one POLL, which leaves what follows
it (R84). -/
theorem exec_poll_wireFrame {s : State} {sr ty : Byte} {p rest : List Byte} (hp : s.pstate = .searchingHeader)
    (hm : s.payload.wf = true) (hl : p.length ≤ 65535) (hq : s.q = wireFrame s.cfg.myId sr ty p ++ rest) :
    ∃ t, exec .poll s = .next t ∧ HoldsPacket s.cfg.myId sr ty p t ∧ t.q = rest ∧
      t.rsp = s.rsp ++ [⟨.ok, 1, 0, []⟩] := by
  have hlen := (bigEndian_length_bytes hl).symm
  have hpacket := frameDone_holdsPacket (c := wireChecksum s.cfg.myId sr ty p) (rest := rest)
    (q := p ++ wireChecksum s.cfg.myId sr ty p :: rest) hm hlen (byteTotal_wireFrame s.cfg.myId sr ty p)
  refine ⟨_, exec_poll_wholeFrame hp hlen (by rw [hq, wireFrame_eq]; simp), hpacket, rfl, ?_⟩
  rw [frameDone_rsp, hpacket.pktValid]
  rfl

/-! ## Bytes appended with room in the ring -/

/-- The state with these bytes in the ring, after k more answers OK, 0. -/
def fed (l : List Byte) (k : Nat) (s : State) : State :=
  { s with q := l, rsp := s.rsp ++ List.replicate k ⟨.ok, 0, 0, []⟩ }

theorem fed_nil_zero {s : State} (h : s.q = []) : fed [] 0 s = s := by
  rw [fed, ← h, List.replicate_zero, List.append_nil]

theorem respond_fed (l : List Byte) (k : Nat) (s : State) : respond .ok 0 0 [] (fed l k s) = fed l (k + 1) s := by
  simp only [respond, fed, List.replicate_succ', List.append_assoc]

/-- An APPEND with room in the ring discards nothing (R71). -/
theorem exec_append_fed {l : List Byte} {s : State} (h : l.length < s.cfg.rbCap) (b : Byte) (k : Nat) :
    exec (.append b) (fed l k s) = .next (fed (l ++ [b]) (k + 1) s) := by
  have hroom : ringAppend b (fed l k s) = fed (l ++ [b]) k s := by
    rw [ringAppend, if_neg (by exact h.ne)]
    rfl
  rw [exec_append, hroom, respond_fed]

/-- APPENDs of bytes that fit leave them all in Q, in order (R71). -/
theorem execAll_append_fed {m l : List Byte} {s : State} (h : m.length + l.length ≤ s.cfg.rbCap) (k : Nat) :
    execAll (l.map .append) (fed m k s) = .next (fed (m ++ l) (k + l.length) s) := by
  induction l generalizing m k with
  | nil => rw [List.append_nil]; rfl
  | cons b l ih =>
    rw [List.length_cons] at h
    rw [List.map_cons, execAll_cons_next (exec_append_fed (by omega) b k), ih (by simp; omega), List.append_assoc,
      List.length_cons, Nat.add_right_comm k, Nat.add_assoc k]
    rfl

theorem execAll_append_next {as : List Instr} {s t : State} (h : execAll as s = .next t) (bs : List Instr) :
    execAll (as ++ bs) s = execAll bs t := by
  rw [execAll_append, h]

theorem execAll_singleton (i : Instr) {s t : State} (h : exec i s = .next t) : execAll [i] s = .next t :=
  execAll_cons_next h []

/-! ## Bytes fed one by one, with a POLL after each (R96) -/

/-- An APPEND and a POLL for each byte. -/
def feed (l : List Byte) : List Instr := l.flatMap fun b => [.append b, .poll]

theorem feed_append (l m : List Byte) : feed (l ++ m) = feed l ++ feed m := List.flatMap_append

/-- A byte fed with room in the ring is the POLL after its APPEND. -/
theorem execAll_feed_cons {b : Byte} {m : List Byte} {k : Nat} {s t : State} (hc : m.length < s.cfg.rbCap)
    (h : exec .poll (fed (m ++ [b]) (k + 1) s) = .next t) (l : List Byte) :
    execAll (feed (b :: l)) (fed m k s) = execAll (feed l) t :=
  (execAll_cons_next (exec_append_fed hc b k) _).trans (execAll_cons_next h _)

/-- The first POLL closes the window, so it does not matter whether it was open (R79). -/
theorem execAll_feed_closes (b : Byte) (l : List Byte) (s : State) :
    execAll (feed (b :: l)) s = execAll (feed (b :: l)) { s with pktValid := false } := rfl

/-- With fewer than n bytes in the ring, whatever they are, a POLL only answers 0. -/
def PollWaitsBelow (n : Nat) (s : State) : Prop :=
  ∀ l k, l.length < n → exec .poll (fed l k s) = .next (fed l (k + 1) s)

theorem pollWaitsBelow_seven {s : State} (hp : s.pstate = .searchingHeader) (hv : s.pktValid = false) :
    PollWaitsBelow 7 s := by
  intro l k hl
  have hclosed : { fed l k s with pktValid := false } = fed l k s := by rw [← hv]; rfl
  rw [exec_poll_notYet (s := fed l k s) hp (detectHeader_short hl), hclosed, respond_fed]

theorem pollWaitsBelow_trem {s : State} (hp : s.pstate = .headerValid) (hv : s.pktValid = false) :
    PollWaitsBelow s.trem.toNat s := by
  intro l k hl
  have hclosed : { fed l k s with pktValid := false } = fed l k s := by rw [← hv]; rfl
  rw [exec_poll_headerValid (s := fed l k s) hp, hclosed, pollTrailing_wait (by exact hl), respond_fed]

/-- While the POLLs wait, feeding bytes fills the ring, and each APPEND and each POLL answers 0. -/
theorem execAll_feed_waits {n : Nat} {s : State} (h : PollWaitsBelow n s) {m l : List Byte}
    (hn : m.length + l.length < n) (hc : m.length + l.length ≤ s.cfg.rbCap) (k : Nat) :
    execAll (feed l) (fed m k s) = .next (fed (m ++ l) (k + 2 * l.length) s) := by
  induction l generalizing m k with
  | nil => rw [List.append_nil]; rfl
  | cons b l ih =>
    rw [List.length_cons] at hn hc
    have hlen : (m ++ [b]).length = m.length + 1 := by simp
    rw [execAll_feed_cons (by omega) (h (m ++ [b]) (k + 1) (by omega)), ih (by omega) (by omega), List.append_assoc,
      List.length_cons, show k + 1 + 1 + 2 * l.length = k + 2 * (l.length + 1) by omega]
    rfl

/-- Feeding the seven bytes of a header to an empty ring: the seventh POLL reads the header, and all answer 0 (R81). -/
theorem execAll_feed_header {s : State} (hp : s.pstate = .searchingHeader) (hv : s.pktValid = false)
    (hc : 7 ≤ s.cfg.rbCap) (d sr ty hi lo : Byte) :
    execAll (feed [sync0, sync1, d, sr, ty, hi, lo]) (fed [] 0 s) =
      .next (fed [] 14 (headerRead d sr ty hi lo [] s)) := by
  have hsix := execAll_feed_waits (pollWaitsBelow_seven hp hv) (m := []) (l := [sync0, sync1, d, sr, ty, hi])
    (by simp) (by simp; omega) 0
  have hseventh : exec .poll (fed [sync0, sync1, d, sr, ty, hi, lo] 13 s) =
      .next (fed [] 14 (headerRead d sr ty hi lo [] s)) := by
    rw [exec_poll_headerRead (s := fed [sync0, sync1, d, sr, ty, hi, lo] 13 s) hp rfl (by simp)]
    exact congrArg _ (respond_fed [] 13 (headerRead d sr ty hi lo [] s))
  rw [show [sync0, sync1, d, sr, ty, hi, lo] = [sync0, sync1, d, sr, ty, hi] ++ [lo] from rfl, feed_append,
    execAll_append_next hsix]
  exact execAll_feed_cons (by simp; omega) hseventh []

/-- Feeding the trailing bytes of a held header: the last POLL completes the frame, and all before it answer 0 (R83). -/
theorem execAll_feed_trailing {s : State} {p : List Byte} (hp : s.pstate = .headerValid) (hv : s.pktValid = false)
    (hlen : p.length = s.plen.toNat) (htrem : s.trem.toNat = s.plen.toNat + 1) (hc : p.length + 1 ≤ s.cfg.rbCap)
    (c : Byte) (k : Nat) :
    execAll (feed (p ++ [c])) (fed [] k s) = .next (frameDone p c [] (fed [] (k + 2 * p.length + 1) s)) := by
  have hpay := execAll_feed_waits (pollWaitsBelow_trem hp hv) (m := []) (l := p) (by simp; omega) (by simp; omega) k
  have hlast := exec_poll_heldFrame (s := fed (p ++ [c]) (k + 2 * p.length + 1) s) hp hlen htrem rfl
  rw [feed_append, execAll_append_next hpay]
  exact execAll_feed_cons (by exact hc) hlast []

/-- A frame addressed to MY_ID, fed to an empty ring that holds it, is accepted by the last POLL, and every answer before
it is 0 (R96). -/
theorem execAll_feed_wireFrame {s : State} {sr ty : Byte} {p : List Byte} (hq : s.q = [])
    (hp : s.pstate = .searchingHeader) (hv : s.pktValid = false) (hm : s.payload.wf = true) (hl : p.length ≤ 65535)
    (hc : p.length + 8 ≤ s.cfg.rbCap) :
    ∃ t, execAll (feed (wireFrame s.cfg.myId sr ty p)) s = .next t ∧ HoldsPacket s.cfg.myId sr ty p t ∧ t.q = [] ∧
      t.rsp = s.rsp ++ List.replicate (2 * p.length + 15) ⟨.ok, 0, 0, []⟩ ++ [⟨.ok, 1, 0, []⟩] := by
  have hlen := (bigEndian_length_bytes hl).symm
  have hheader := execAll_feed_header hp hv (by omega) s.cfg.myId sr ty (BitVec.ofNat 8 (p.length / 256))
    (BitVec.ofNat 8 (p.length % 256))
  have htrailing := execAll_feed_trailing (s := headerRead s.cfg.myId sr ty _ _ [] s) rfl rfl hlen (trem_toNat _)
    (by exact (by omega : p.length + 1 ≤ s.cfg.rbCap)) (wireChecksum s.cfg.myId sr ty p) 14
  have hpacket := frameDone_holdsPacket (s := fed [] (14 + 2 * p.length + 1) s)
    (c := wireChecksum s.cfg.myId sr ty p) (q := []) (rest := []) hm hlen (byteTotal_wireFrame s.cfg.myId sr ty p)
  rw [fed_nil_zero hq] at hheader
  have hrun := (execAll_append_next hheader _).trans htrailing
  rw [← feed_append] at hrun
  refine ⟨_, hrun, hpacket, rfl, (frameDone_rsp ..).trans ?_⟩
  rw [show 2 * p.length + 15 = 14 + 2 * p.length + 1 by omega]
  exact congrArg (fun b => _ ++ [(⟨.ok, bitWord b, 0, []⟩ : Response)]) hpacket.pktValid

/-- SENDTEXT's payload fits the frame's length field, because SCRATCH_CAP does (R6, R105). -/
theorem textPayload_length_le {s : State} (h : s.cfg.valid = true) (n : Nat) : (textPayload s n).length ≤ 65535 := by
  simp only [Config.valid, Bool.and_eq_true, decide_eq_true_eq] at h
  simp only [textPayload, List.length_append, List.length_take, List.length_singleton]
  omega

end Sys2Proof.Machine

/-! ## The obligations -/

namespace Sys2Proof.Proofs

open Sys2Proof Sys2Proof.Machine

/-- Settles O1: the encoder's word has the command's opcode, and its fields hold the operands. -/
theorem encodedCommandDecodesToItself : Obligations.EncodedCommandDecodesToItself := decode_encode

/-- Settles O2: the encoder's word for a decoded command is the canonical word, which is the word itself exactly if the
unused fields are zero. -/
theorem decodedWordIsCanonicalIffUnusedFieldsZero : Obligations.DecodedWordIsCanonicalIffUnusedFieldsZero := by
  intro w i h
  rw [← canonicalWord_eq_iff, ← encode_rereadFrom (opField_of_decode h), rereadFrom_of_decode h]

/-- Settles O3, from the command that reads both words, or the error that names their opcode. -/
theorem unusedFieldsAreIgnored : Obligations.UnusedFieldsAreIgnored := fun _ _ => decode_congr

/-- Settles O4: the decoder's last arm is reached exactly in R65's ranges. -/
theorem illegalOpcodesAreExactlyTheUnassigned : Obligations.IllegalOpcodesAreExactlyTheUnassigned :=
  unassigned_iff_decode_error

/-- Settles O6: every word the assembler puts is the encoder's, so it decodes to its command; a text that fits has its
length in the 16 bits of N. -/
theorem linesStandForTheirCommands : Obligations.LinesStandForTheirCommands := by
  refine ⟨fun bytes => ?_, fun _ => rfl, rfl, fun d ty text h => ?_⟩
  · refine ⟨bytes.map fun b => encode (.append b), ?_, ?_⟩
    · rw [List.map_map]; rfl
    · rw [List.map_map]
      exact List.map_congr_left fun b _ => decode_encode (.append b)
  · have hlen : text.length < 2 ^ 16 := of_decide_eq_true h
    exact ⟨_, _, rfl, decode_encode _, BitVec.toNat_ofNat _ _ ▸ Nat.mod_eq_of_lt hlen, rfl⟩

/-- Settles O8: the word decodes to an error, and the step only raises IllegalCommand. -/
theorem illegalCommandOnlyAnswers : Obligations.IllegalCommandOnlyAnswers := by
  intro s w rest hi hs op hop
  have hd := (unassigned_iff_decode_error w).1 hop
  exact ⟨_, _, _, (step_command hi hs).trans (runCommand_error hd _)⟩

/-- Settles O30: the APPENDs put the frame in Q, and the POLL accepts it. -/
theorem appendedFrameIsAccepted : Obligations.AppendedFrameIsAccepted := by
  intro s sr ty p hq hp hm hl hc f
  have happend := execAll_append_fed (m := []) (l := f) (s := s) (by simp [f, length_wireFrame]; omega) 0
  rw [fed_nil_zero hq] at happend
  obtain ⟨t, hpoll, ht, htq, hr⟩ := exec_poll_wireFrame (s := fed f (0 + f.length) s) (sr := sr) (ty := ty) (p := p)
    (rest := []) hp hm hl (List.append_nil f).symm
  refine ⟨t, (execAll_append_next happend _).trans (execAll_singleton .poll hpoll), ?_, ht.pktValid, ht.pstate, htq,
    ht.dest, ht.src, ht.typ, ht.plen, ht.payload⟩
  rw [hr, Nat.zero_add]; rfl

/-- Settles O31: the first POLL closes the window; then the header's seven bytes are fed, and the trailing bytes, of which
the last completes the frame. -/
theorem frameFedByteByByteIsAccepted : Obligations.FrameFedByteByByteIsAccepted := by
  intro s sr ty p hq hp hm hl hc f
  obtain ⟨t, hrun, ht, htq, hr⟩ := execAll_feed_wireFrame (s := { s with pktValid := false }) (sr := sr) (ty := ty)
    hq hp rfl hm hl hc
  refine ⟨t, (execAll_feed_closes _ _ s).trans hrun, ?_, ht.pktValid, ht.pstate, htq, ht.dest, ht.src, ht.typ, ht.plen,
    ht.payload⟩
  rw [hr, show 2 * f.length - 1 = 2 * p.length + 15 by rw [length_wireFrame]; omega]

/-- Settles O32: the changed frame has the header's length, so POLL consumes it all, but it does not sum to 0 mod 256. -/
theorem oneByteCorruptionIsRejected : Obligations.OneByteCorruptionIsRejected := by
  intro s sr ty b p rest o hp hl f ho hb hlt hq
  have hsum := byteTotal_set_ne_zero hlt (hb hlt) (byteTotal_wireFrame ..)
  obtain ⟨d, sr', ty', p', c, hlen, hset⟩ := wireFrame_set_shape s.cfg.myId sr ty b p ho
  rw [hset] at hsum
  refine exec_poll_rejects hp (hlen.trans (bigEndian_length_bytes hl).symm) ?_ hsum
  rw [hq, hset]
  simp

/-- Settles O51: the transport takes the whole staged frame, and the receiver's POLL accepts it. -/
theorem sentFrameIsAcceptedByItsDestination : Obligations.SentFrameIsAcceptedByItsDestination := by
  intro s r ty n rest hc hn hp hm p f hs hq
  obtain ⟨u, hpoll, hu, huq, -⟩ := exec_poll_wireFrame hp hm (textPayload_length_le hc _) hq
  refine ⟨_, u, exec_sendText_transmits hc hn r.cfg.myId ty, ?_, byteTotal_wireFrame .., hpoll, hu.pktValid, huq, hu.dest,
    hu.src, hu.typ, hu.plen, hu.payload⟩
  rw [transmit_all (as := []) (by rw [List.append_nil]; exact hs)]

/-- Settles O5, by decoding each word. -/
theorem specWordsDecodeAsWritten : Obligations.SpecWordsDecodeAsWritten := by
  unfold Obligations.SpecWordsDecodeAsWritten
  decide

/-- Settles O37: with the window closed, each accessor is `raiseNoPacket`. -/
theorem accessorsAnswerNoPacketOutsideWindow : Obligations.AccessorsAnswerNoPacketOutsideWindow := by
  rintro s i hv (rfl | rfl | rfl | rfl | ⟨n, rfl⟩)
  · exact ⟨_, _, exec_getDest_closed hv⟩
  · exact ⟨_, _, exec_getSrc_closed hv⟩
  · exact ⟨_, _, exec_getType_closed hv⟩
  · exact ⟨_, _, exec_getLen_closed hv⟩
  · exact ⟨_, _, exec_getPay_closed hv⟩

end Sys2Proof.Proofs

/-! PROOFS of the family 40_ring_buffer: what each Ring Buffer command does and leaves unchanged.

A ring that overruns is told as "the last RB_CAP bytes of all that came" (`List.rtake`), which each APPEND keeps true
whether or not the ring was full; so APPENDs past the capacity need no case for the moment at which the ring fills. -/

namespace Sys2Proof.Machine

/-! ## The last bytes of all that came -/

theorem length_rtake (l : List Byte) (n : Nat) : (l.rtake n).length = min n l.length := by
  rw [List.rtake, List.length_drop]
  omega

/-- The last n bytes of a list are its last n + 1 without the oldest, if it has n + 1, and otherwise all of them. -/
theorem rtake_eq_rtake_succ (l : List Byte) (n : Nat) :
    l.rtake n = if (l.rtake (n + 1)).length = n + 1 then (l.rtake (n + 1)).drop 1 else l.rtake (n + 1) := by
  rw [length_rtake]
  split_ifs with hfull
  · rw [List.rtake, List.rtake, List.drop_drop]
    congr 1
    omega
  · rw [List.rtake, List.rtake, Nat.sub_eq_zero_of_le (by omega), Nat.sub_eq_zero_of_le (by omega)]

/-- An append to a ring that holds the last bytes of those that came leaves the last bytes with the new one, the oldest
dropped exactly if the ring was full (R41, R71). -/
theorem ringAppend_fed_rtake {s : State} (hc : 1 ≤ s.cfg.rbCap) (l : List Byte) (b : Byte) (k : Nat) :
    ringAppend b (fed (l.rtake s.cfg.rbCap) k s) = fed ((l ++ [b]).rtake s.cfg.rbCap) k s := by
  obtain ⟨n, hn⟩ := Nat.exists_eq_add_of_le' hc
  rw [hn, List.rtake_concat_succ, rtake_eq_rtake_succ l n, ← hn]
  rfl

/-- After any APPENDs Q holds the last RB_CAP of all bytes that came, and each was answered OK (R41, R71). -/
theorem execAll_append_fed_rtake {s : State} (hc : 1 ≤ s.cfg.rbCap) (l m : List Byte) (k : Nat) :
    execAll (m.map .append) (fed (l.rtake s.cfg.rbCap) k s) =
      .next (fed ((l ++ m).rtake s.cfg.rbCap) (k + m.length) s) := by
  induction m generalizing l k with
  | nil => rw [List.append_nil]; rfl
  | cons b m ih =>
    have happend : exec (.append b) (fed (l.rtake s.cfg.rbCap) k s) =
        .next (fed ((l ++ [b]).rtake s.cfg.rbCap) (k + 1) s) := by
      rw [exec_append, ringAppend_fed_rtake hc, respond_fed]
    rw [List.map_cons, execAll_cons_next happend, ih, List.append_assoc, List.singleton_append, List.length_cons,
      Nat.add_assoc, Nat.add_comm 1]

/-- As many RETRIEVEs as the ring holds bytes answer them all in order and leave it empty (R72). -/
theorem execAll_retrieve_fed (l : List Byte) (k : Nat) {s : State} (hq : s.q = []) :
    execAll (List.replicate l.length .retrieve) (fed l k s) = .next { s with
      rsp := s.rsp ++ List.replicate k ⟨.ok, 0, 0, []⟩ ++ l.map (fun b => ⟨.ok, zextByte b, 0, []⟩) } := by
  rw [execAll_retrieve (s := fed l k s) (List.append_nil l).symm]
  simp only [fed, hq]

/-! ## Ranges -/

theorem rbCap_bounds_of_valid {c : Config} (h : c.valid = true) : 1 ≤ c.rbCap ∧ c.rbCap < 2 ^ 32 := by
  simp only [Config.valid, Bool.and_eq_true, decide_eq_true_eq] at h
  omega

/-- A count below 2^32 stands in a response as it is (R45). -/
theorem toNat_countWord {n : Nat} (h : n < 2 ^ 32) : (countWord n).toNat = n :=
  (BitVec.toNat_ofNat _ _).trans (Nat.mod_eq_of_lt h)

end Sys2Proof.Machine

/-! ## The obligations -/

namespace Sys2Proof.Proofs

open Sys2Proof Sys2Proof.Machine

/-- Settles O12: both the command and the RX byte are `ringAppend`, and only the command answers. -/
theorem appendDropsOldestWhenFull : Obligations.AppendDropsOldestWhenFull := fun v =>
  ⟨decode_encode (.append v), fun s => ⟨exec_append v s, fun _ hs hi => step_rx hi hs⟩⟩

/-- Settles O13, by whether Q holds a byte. -/
theorem retrieveReturnsOldest : Obligations.RetrieveReturnsOldest :=
  ⟨decode_of_opcode (i := .retrieve) (by decide), fun _ =>
    ⟨fun _ _ hq => exec_retrieve_cons hq, fun hq => ⟨_, _, _, exec_retrieve_nil hq⟩⟩⟩

/-- Settles O14, by whether Q holds a byte. -/
theorem peekReturnsOldestAndKeepsIt : Obligations.PeekReturnsOldestAndKeepsIt :=
  ⟨decode_of_opcode (i := .peek) (by decide), fun _ =>
    ⟨fun _ _ hq => exec_peek_cons hq, fun hq => ⟨_, _, _, exec_peek_nil hq⟩⟩⟩

/-- Settles O15: what READUPTO answers is what it drops from Q. -/
theorem readUpToReturnsOldestBytes : Obligations.ReadUpToReturnsOldestBytes := fun n =>
  ⟨decode_encode (.readUpTo n), exec_readUpTo n⟩

/-- Settles O17: an occupancy of at most RB_CAP fits the 32 bits of the value, so it is answered exactly. -/
theorem availableReturnsOccupancy : Obligations.AvailableReturnsOccupancy := by
  refine ⟨decode_of_opcode (i := .available) (by decide), fun s hc hq => ?_⟩
  refine ⟨_, toNat_countWord ?_, exec_available s⟩
  exact hq.trans_lt (rbCap_bounds_of_valid hc).2

/-- Settles O18: RBRESET is `ringReset` and its answer. -/
theorem rbResetEmptiesOnlyTheRing : Obligations.RbResetEmptiesOnlyTheRing :=
  ⟨decode_of_opcode (i := .rbReset) (by decide), exec_rbReset⟩

/-- Settles O19: the APPENDs leave the last RB_CAP bytes in Q, and the RETRIEVEs take exactly these. -/
theorem overrunKeepsMostRecentBytes : Obligations.OverrunKeepsMostRecentBytes := by
  intro s bytes hc hq hlt
  have hlen : (bytes.rtake s.cfg.rbCap).length = s.cfg.rbCap := by
    rw [length_rtake, min_eq_left hlt.le]
  have happend := execAll_append_fed_rtake (rbCap_bounds_of_valid hc).1 [] bytes 0
  rw [List.rtake_nil, fed_nil_zero hq, List.nil_append, Nat.zero_add] at happend
  have hretrieve := execAll_retrieve_fed (bytes.rtake s.cfg.rbCap) bytes.length hq
  rw [hlen] at hretrieve
  exact ⟨_, (execAll_append_next happend _).trans hretrieve, rfl⟩

end Sys2Proof.Proofs


/-! PROOFS of the family 41_framing: what a POLL discards at a resync, what it leaves after a completed frame, and what the
accessors and CLEAR do.

A completed frame's two numbers, its sum and its acceptance, are computed once (`frameDone_eq`), from the fact that the
accumulator after the checksum byte is the exact sum mod 256; the whole frame and the held frame differ only in which sum
that is. -/

namespace Sys2Proof.Machine

/-! ## A POLL that resyncs (R82) -/

/-- What resync discards holds no 0xAA, and what it leaves begins with one or is nothing. -/
theorem takeWhile_dropWhile_sync0 (l : List Byte) :
    (∀ x ∈ l.takeWhile (· != sync0), x ≠ sync0) ∧
      (l.dropWhile (· != sync0) = [] ∨ ∃ tail, l.dropWhile (· != sync0) = sync0 :: tail) := by
  refine ⟨fun x hx => bne_iff_ne.1 (List.mem_takeWhile_imp hx :), ?_⟩
  cases hl : l.dropWhile (· != sync0) with
  | nil => exact .inl rfl
  | cons x tail =>
    have hx := List.head_dropWhile_not (l := l) (· != sync0) (by simp [hl])
    simp only [hl, List.head_cons, bne_eq_false_iff_eq] at hx
    exact .inr ⟨tail, by rw [hx]⟩

/-- Resync passes over bytes without 0xAA. -/
theorem dropWhile_ne_sync0_append {g : List Byte} (h : ∀ x ∈ g, x ≠ sync0) (l : List Byte) :
    (g ++ l).dropWhile (· != sync0) = l.dropWhile (· != sync0) :=
  List.dropWhile_append_of_pos fun x hx => bne_iff_ne.2 (h x hx)

/-- A bad first byte and a bad second byte lead to the same POLL, over the bytes after the bad one (R81, R82). -/
theorem exec_poll_resyncs {s : State} {b : Byte} {rest : List Byte} (hp : s.pstate = .searchingHeader)
    (h : s.q = b :: rest ∧ 6 ≤ rest.length ∧ b ≠ sync0 ∨ s.q = sync0 :: b :: rest ∧ 5 ≤ rest.length ∧ b ≠ sync1) :
    exec .poll s = .next (respond .ok 0 0 [] (resync { s with pktValid := false, csum := 0, q := rest })) := by
  rcases h with ⟨hq, hl, hb⟩ | ⟨hq, hl, hb⟩
  · exact exec_poll_notYet hp (detectHeader_badFirst hq hl hb)
  · exact exec_poll_notYet hp (detectHeader_badSecond hq hl hb)

/-- Garbage without 0xAA before a frame is discarded by one POLL, and the frame stays (R82). -/
theorem exec_poll_discards_garbage {s : State} {d sr ty : Byte} {g p rest : List Byte}
    (hp : s.pstate = .searchingHeader) (hg : g ≠ []) (hsync : ∀ x ∈ g, x ≠ sync0)
    (hq : s.q = g ++ wireFrame d sr ty p ++ rest) :
    exec .poll s = .next (respond .ok 0 0 [] { s with
      pktValid := false, csum := 0, q := wireFrame d sr ty p ++ rest, resyncCnt := s.resyncCnt + 1 }) := by
  obtain ⟨b, g, rfl⟩ := List.exists_cons_of_ne_nil hg
  obtain ⟨hb, hg⟩ := List.forall_mem_cons.1 hsync
  have hpoll := exec_poll_resyncs (b := b) (rest := g ++ (wireFrame d sr ty p ++ rest)) hp
    (.inl ⟨by rw [hq]; simp, by simp [length_wireFrame]; omega, hb⟩)
  rw [hpoll, resync, dropWhile_ne_sync0_append hg]
  rfl

/-! ## A POLL that completes a frame (R83, R84) -/

/-- The acceptance test over the exact sum that CSUM holds mod 256 (R84). -/
theorem accepts_eq_decide {s : State} {n : Nat} (h : s.csum = BitVec.ofNat 8 n) :
    accepts s = decide (s.dest = s.cfg.myId ∧ n % 256 = 0) := by
  have hn : BitVec.ofNat 8 n = 0 ↔ n % 256 = 0 := by rw [← BitVec.toNat_inj, BitVec.toNat_ofNat]; rfl
  rw [accepts, h, Bool.decide_and, ← decide_eq_decide.2 hn]
  rfl

/-- A completed frame field by field, for the sum of what CSUM held and the trailing bytes. -/
theorem frameDone_eq {s : State} {p : List Byte} {c : Byte} {n : Nat}
    (hn : addToSum s.csum (p ++ [c]) = BitVec.ofNat 8 n) (rest : List Byte) :
    let ok := decide (s.dest = s.cfg.myId ∧ n % 256 = 0)
    frameDone p c rest s = { s with
      pktValid := ok, pstate := .searchingHeader, csum := BitVec.ofNat 8 n, chkByte := c,
      payload := s.payload.writeFrom 0 p, q := rest, rsp := s.rsp ++ [⟨.ok, bitWord ok, 0, []⟩] } := by
  rw [frameDone, hn, finishFrame, accepts_eq_decide rfl]
  rfl

/-- CSUM after a whole frame is the sum of all its bytes, although POLL adds the header's and the trailing bytes apart
(R22). -/
theorem addToSum_wholeFrame (hdr p : List Byte) (c : Byte) :
    addToSum (addToSum 0 hdr) (p ++ [c]) = BitVec.ofNat 8 (byteTotal (hdr ++ p ++ [c])) := by
  rw [← addToSum_append, addToSum_eq_ofNat, show (0 : Byte).toNat = 0 from rfl, Nat.zero_add, List.append_assoc]

/-- CSUM after a held frame is what it held and the sum of the trailing bytes (R22). -/
theorem addToSum_heldFrame (a : Byte) (p : List Byte) (c : Byte) :
    addToSum a (p ++ [c]) = BitVec.ofNat 8 (a.toNat + byteTotal p + c.toNat) := by
  rw [addToSum_eq_ofNat, byteTotal_append, byteTotal_cons, byteTotal_nil, Nat.add_zero, Nat.add_assoc]

/-- A POLL over a frame's first two bytes counts no resync (R82). -/
theorem poll_wireFrame_resyncCnt {s t : State} {d sr ty : Byte} {p rest : List Byte}
    (hq : s.q = wireFrame d sr ty p ++ rest) (h : exec .poll s = .next t) : t.resyncCnt = s.resyncCnt := by
  rcases poll_resyncCnt h with hk | ⟨-, -, -, hno⟩
  · exact hk
  · exact absurd ⟨_, hq.trans (congrArg (· ++ rest) (wireFrame_eq d sr ty p))⟩ hno

end Sys2Proof.Machine

/-! ## The obligations -/

namespace Sys2Proof.Proofs

open Sys2Proof Sys2Proof.Machine

/-- Settles O22: after the bad byte, resync takes the bytes up to the first 0xAA and leaves the others. -/
theorem pollResyncsToNextSyncByte : Obligations.PollResyncsToNextSyncByte := by
  intro s b rest hp h
  obtain ⟨hdiscarded, hleft⟩ := takeWhile_dropWhile_sync0 rest
  exact ⟨_, _, List.takeWhile_append_dropWhile.symm, hdiscarded, hleft, exec_poll_resyncs hp h⟩

/-- Settles O24: the POLL reads the header and completes the frame; the parser is back where it was. -/
theorem pollCompletesWholeFrame : Obligations.PollCompletesWholeFrame := by
  intro s d sr ty hi lo c p rest hp hm hlen hq total ok
  refine ⟨s.payload.writeFrom 0 p, ?_, scratch_frame_cells hm p⟩
  have hpoll := exec_poll_wholeFrame (s := s) (d := d) (sr := sr) (ty := ty) (c := c) (rest := rest) hp
    (hlen.trans (bigEndian_toNat hi lo).symm) (by rw [hq]; simp [sync0, sync1])
  have hdone := frameDone_eq (s := headerRead d sr ty hi lo (p ++ c :: rest) s)
    (addToSum_wholeFrame [0xAA, 0x55, d, sr, ty, hi, lo] p c) rest
  rw [hpoll, hdone, headerRead, trem_eq_ofNat, bigEndian_eq_ofNat, hp]
  rfl

/-- Settles O26: the POLL completes the frame from the header it holds. -/
theorem pollCompletesHeldFrame : Obligations.PollCompletesHeldFrame := by
  intro s c p rest hp hm htrem hlen hq total ok
  refine ⟨s.payload.writeFrom 0 p, ?_, scratch_frame_cells hm p⟩
  have hdone := frameDone_eq (s := { s with pktValid := false }) (addToSum_heldFrame s.csum p c) rest
  rw [exec_poll_heldFrame hp hlen htrem hq, hdone]
  rfl

/-- Settles O33: the first POLL discards the garbage only, so the second finds the frame at the head of Q, where no resync
is due. -/
theorem pollRecoversAfterGarbage : Obligations.PollRecoversAfterGarbage := by
  intro s sr ty g p rest hp hm hl hg hsync hq
  have hfirst := exec_poll_discards_garbage hp hg hsync hq
  obtain ⟨u, hsecond, hu, huq, -⟩ := exec_poll_wireFrame (s := respond .ok 0 0 [] { s with
    pktValid := false, csum := 0, q := wireFrame s.cfg.myId sr ty p ++ rest, resyncCnt := s.resyncCnt + 1 }) hp hm hl rfl
  exact ⟨_, u, hfirst, hsecond, rfl, rfl, rfl, huq, hu.pktValid, poll_wireFrame_resyncCnt rfl hsecond, hu.src, hu.typ,
    hu.plen, hu.payload⟩

/-- Settles O21: with fewer than 7 bytes detection changes nothing. -/
theorem pollNeedsSevenBytes : Obligations.PollNeedsSevenBytes := fun _ hp hl =>
  exec_poll_notYet hp (detectHeader_short hl)

/-- Settles O25: a held header with too few bytes after it makes POLL wait. -/
theorem pollWaitsForTrailingBytes : Obligations.PollWaitsForTrailingBytes := fun _ hp hl =>
  (exec_poll_headerValid hp).trans (pollTrailing_wait hl)

/-- Settles O36: with the window open, each accessor answers its register. -/
theorem accessorsReturnPacketFields : Obligations.AccessorsReturnPacketFields := fun _ hv =>
  ⟨exec_getDest_open hv, exec_getSrc_open hv, exec_getType_open hv, exec_getLen_open hv⟩

/-- Settles O38, by whether the index is below PLEN. -/
theorem getPayReturnsPayloadByte : Obligations.GetPayReturnsPayloadByte := fun _ _ hv =>
  ⟨fun hn => exec_getPay_inside hv hn, fun hn => ⟨_, _, exec_getPay_beyond hv hn⟩⟩

/-- Settles O39: GETRESYNC only answers. -/
theorem getResyncReturnsCounter : Obligations.GetResyncReturnsCounter :=
  ⟨decode_of_opcode (i := .getResync) (by decide), exec_getResync⟩

/-- Settles O41: the command and the pulse are the same teardown, and only the command answers. -/
theorem clearDiscardsPartialFrame : Obligations.ClearDiscardsPartialFrame :=
  ⟨decode_of_opcode (i := .clear) (by decide), fun s => ⟨exec_clear s, fun _ hs hi => step_clear hi hs⟩⟩

end Sys2Proof.Proofs

/-! PROOFS of the family 42_field_parsers: the values, the cursor and the statuses of PARSES8, PARSEDUP and SEXT.

SignExtend(raw, w) is the library's signed reading of `raw` cut to `w` bits (`signExtend_eq_toInt`), and a value of at
most 16 bits keeps its signed reading in the 32-bit response word; the three commands' values follow from these two. -/

namespace Sys2Proof.Machine

/-! ## SignExtend (R100) -/

/-- The top bit that SignExtend tests is the sign bit of the cut word. -/
theorem signExtend_eq_toInt (raw : Half) (w : Nat) : signExtend raw w = (raw.setWidth w).toInt := by
  rw [BitVec.toInt_eq_msb_cond, BitVec.msb_eq_getLsbD_last, ← BitVec.testBit_toNat, BitVec.toNat_setWidth]
  rfl

theorem signExtend_sixteen (raw : Half) : signExtend raw 16 = raw.toInt := by
  rw [signExtend_eq_toInt, BitVec.setWidth_eq]

theorem signExtend_setWidth_eight (b : Byte) : signExtend (b.setWidth 16) 8 = b.toInt := by
  rw [signExtend_eq_toInt, BitVec.setWidth_setWidth_of_le b (by decide), BitVec.setWidth_eq]

/-- R100's arithmetic: the low `w` bits, less 2^w if they are at least 2^(w-1). -/
theorem signExtend_eq_ite (raw : Half) {w : Nat} (hw : 1 ≤ w) :
    signExtend raw w = if (2 : Int) ^ (w - 1) ≤ raw.toNat % 2 ^ w then (raw.toNat % 2 ^ w : Int) - 2 ^ w
      else raw.toNat % 2 ^ w := by
  have hhalf : 2 * 2 ^ (w - 1) = 2 ^ w := mul_pow_sub_one (by omega) 2
  rw [signExtend_eq_toInt, BitVec.toInt_eq_toNat_cond, BitVec.toNat_setWidth, ← ite_not]
  refine if_congr ?_ (by norm_cast) (by norm_cast)
  norm_cast
  omega

/-- The response word of a SignExtend keeps its signed reading (R45, R100). -/
theorem toInt_sextWord_signExtend (raw : Half) {w : Nat} (hw : w ≤ 16) :
    (sextWord (signExtend raw w)).toInt = signExtend raw w := by
  rw [signExtend_eq_toInt]
  exact BitVec.toInt_signExtend_of_le (by omega)

/-! ## Big-endian fields and their copies (R42, R102) -/

theorem toInt_bigEndian (hi lo : Byte) : (bigEndian hi lo).toInt = 256 * hi.toInt + lo.toNat :=
  BitVec.toInt_append

theorem bigEndian_inj {hi lo hi' lo' : Byte} : bigEndian hi lo = bigEndian hi' lo' ↔ hi = hi' ∧ lo = lo' := by
  constructor
  · intro h
    exact ⟨by simpa using congrArg highByte h, by simpa using congrArg lowByte h⟩
  · rintro ⟨rfl, rfl⟩
    rfl

/-- PARSEDUP's comparison of the two signed values is that of their bytes. -/
theorem signExtend_payHalf_eq_iff (s : State) (i j : Nat) :
    signExtend (payHalf s i) 16 = signExtend (payHalf s j) 16 ↔
      s.payload.read i = s.payload.read j ∧ s.payload.read (i + 1) = s.payload.read (j + 1) := by
  rw [signExtend_sixteen, signExtend_sixteen, BitVec.toInt_inj]
  exact bigEndian_inj

/-! ## The cursor (R99 b) -/

/-- The advanced cursor does not wrap. -/
theorem toNat_cursorAfter (n : Half) {w : Nat} (hw : w ≤ 4) : (cursorAfter n w).toNat = n.toNat + w :=
  toNat_countWord (by omega)

end Sys2Proof.Machine

/-! ## The obligations -/

namespace Sys2Proof.Proofs

open Sys2Proof Sys2Proof.Machine

/-- Settles O42, by whether the window is open and the byte inside the payload. -/
theorem parseS8ReturnsSignedByte : Obligations.ParseS8ReturnsSignedByte := by
  refine fun n => ⟨decode_encode (.parseS8 n), fun s =>
    ⟨fun hv => ?closed, fun hv hn => ?beyond, fun hv hn => ?inside⟩⟩
  case closed => exact ⟨_, _, _, exec_parseS8_closed hv⟩
  case beyond => exact ⟨_, _, _, toNat_cursorAfter n (by decide), exec_parseS8_beyond hv hn⟩
  case inside =>
    refine ⟨_, _, toNat_cursorAfter n (by decide), ?_, exec_parseS8_inside hv hn⟩
    rw [toInt_sextWord_signExtend _ (by decide), signExtend_setWidth_eight]

/-- Settles O43, by whether the window is open and the four bytes inside the payload; the copies are
compared as bytes. -/
theorem parseDupReturnsPrimaryAndComparesCopies : Obligations.ParseDupReturnsPrimaryAndComparesCopies := by
  refine fun n => ⟨decode_encode (.parseDup n), fun s =>
    ⟨fun hv => ?closed, fun hv hn => ?beyond, fun hv hn => ?inside⟩⟩
  case closed => exact ⟨_, _, _, exec_parseDup_closed hv⟩
  case beyond => exact ⟨_, _, _, toNat_cursorAfter n (by decide), exec_parseDup_beyond hv hn⟩
  case inside =>
    have hexec := exec_parseDup_inside hv hn
    rw [if_congr (signExtend_payHalf_eq_iff s _ _) rfl rfl] at hexec
    refine ⟨_, _, toNat_cursorAfter n (by decide), ?_, hexec⟩
    rw [toInt_sextWord_signExtend _ le_rfl, signExtend_sixteen]
    exact toInt_bigEndian _ _

/-- Settles O44, by whether the width is one of 1..16. -/
theorem sextReinterpretsLowBits : Obligations.SextReinterpretsLowBits := by
  refine fun w n => ⟨decode_encode (.sext w n), fun s => ⟨fun hw hw' => ?legal, fun hw => ?illegal⟩⟩
  case legal =>
    exact ⟨_, (toInt_sextWord_signExtend n hw').trans (signExtend_eq_ite n hw), exec_sext_legal ⟨hw, hw'⟩⟩
  case illegal => exact ⟨_, _, _, exec_sext_illegal hw⟩

end Sys2Proof.Proofs

/-! PROOFS of the family 43_outbound: the header BUILDHDR writes, the SENDTEXT whose transport answers no more, and the
separation of the two paths. -/

namespace Sys2Proof.Machine

/-! ## The header bytes (R57, R104) -/

theorem headerBytes_eq (c : Config) (d ty : Byte) (n : Half) :
    headerBytes c d ty n =
      [0xAA, 0x55, d, c.myId, ty, BitVec.ofNat 8 (n.toNat / 256), BitVec.ofNat 8 (n.toNat % 256)] := by
  rw [← headerBytes_ofNat, BitVec.ofNat_toNat, BitVec.setWidth_eq]

/-- With the parameters in range BUILDHDR's header fits Scratch (R6, R104). -/
theorem exec_buildHdr_fits {s : State} (h : s.cfg.valid = true) (d ty : Byte) (n : Half) :
    exec (.buildHdr d ty n) s = .next (respond .ok 7 0 (headerBytes s.cfg d ty n)
      { s with scratch := s.scratch.writeFrom 0 (headerBytes s.cfg d ty n) }) := by
  have hcap := (valid_bounds h).2
  rcases exec_buildHdr_cases d ty n s with ⟨-, hw⟩ | ⟨hl, -⟩
  · exact hw
  · omega

/-! ## A transport that answers no more (R106 c) -/

theorem sinkTake_no_answers (bytes : List Byte) : sinkTake bytes [] = ([], [], false) := by
  cases bytes <;> rfl

/-- A transmission that waits already, and is given no answer, waits on in the same state. -/
theorem transmit_no_answers {f : List Byte} {k : Nat} {s : State} (hs : s.sending = some (.transmit f k))
    (hk : k < f.length) (ha : s.sink = []) : transmit f k s = s := by
  calc transmit f k s
      = { s with sink := [], sending := some (.transmit f k) } := by simp [transmit, ha, sinkTake_no_answers, hk]
    _ = s := by rw [← ha, ← hs]

/-- A state that a step leaves as it is, is left as it is by every run. -/
theorem run_of_step_self {s : State} (h : step s = .next s) (n : Nat) : Sys2Proof.core.run n s = .next s := by
  induction n with
  | zero => rfl
  | succ n ih => rw [run_next h, ih]

/-! ## The two paths (R108) -/

/-- A command of the inbound path, POLL or one of the simple ones, leaves the outbound state. -/
theorem exec_sameOutbound {i : Instr} {s t : State} (hb : ∀ d ty n, i ≠ .buildHdr d ty n)
    (hs : ∀ d ty n, i ≠ .sendText d ty n) (h : exec i s = .next t) : SameOutbound s t := by
  by_cases hp : i = .poll
  · subst hp
    exact (poll_keeps h).2.1
  · exact (exec_simple_keeps hp hb hs h).2.1

end Sys2Proof.Machine

/-! ## The obligations -/

namespace Sys2Proof.Proofs

open Sys2Proof Sys2Proof.Machine

/-- Settles O45: the header fits, so it stands in Scratch's first seven cells and in the answer. -/
theorem buildHdrWritesAndEchoesHeader : Obligations.BuildHdrWritesAndEchoesHeader := by
  refine fun d ty n => ⟨decode_encode (.buildHdr d ty n), ?_⟩
  intro s hc hm hdr
  have hexec := exec_buildHdr_fits hc d ty n
  rw [headerBytes_eq] at hexec
  exact ⟨s.scratch.writeFrom 0 hdr, hexec, scratch_frame_cells hm hdr⟩

/-- Settles O50: the step resumes the transmission, which waits on in the same state. -/
theorem stalledSendStallsForEver : Obligations.StalledSendStallsForEver := by
  intro s f k n hs hk ha hp
  have hresume : resumeSend (.transmit f k) s = .next s := congrArg _ (transmit_no_answers hs hk ha)
  exact run_of_step_self ((step_sending hs hp).trans hresume) n

/-- Settles O52, by the command's path. -/
theorem inboundAndOutboundAreSeparate : Obligations.InboundAndOutboundAreSeparate := by
  refine fun i s t h => ⟨?outbound, fun hi => ?inbound⟩
  case outbound =>
    rintro ⟨d, ty, n, rfl | rfl⟩
    · exact (buildHdr_keeps h).2.1
    · exact (collectText_keeps h).2.1
  case inbound => exact exec_sameOutbound (fun d ty n => (hi d ty n).1) (fun d ty n => (hi d ty n).2) h

end Sys2Proof.Proofs

/-! ## The PFE has no trap (R109) -/

namespace Sys2Proof.Proofs

open Sys2Proof Sys2Proof.Machine

/-- Settles O57. Two faults could stop a step, and the invariant bars both: with TREM = PLEN + 1 POLL never pops
an empty ring, and with 9 cells or more in Scratch a header or a frame always fits (`step_goes_on`). -/
theorem stepAlwaysGoesOn : Obligations.StepAlwaysGoesOn :=
  fun _ h => step_goes_on h

end Sys2Proof.Proofs
